-- ==== Sys2Proof/Word.lean ====
section
/-! DEFINITION. The two word types of the block (00_scope.md R21, 10_state.md R28): bytes on the ports and the bus,
and 16-bit words for command words and working registers. Every value is unsigned. -/

namespace Sys2Proof

/-- A byte, bit 0 least significant (R21). -/
abbrev Byte := BitVec 8

/-- A command word (R74) or a working register (R28). -/
abbrev Word := BitVec 16

end Sys2Proof
end

