-- ==== Sys2Proof/Config.lean ====
section
/-! DEFINITION. What is fixed for the life of one block: the numeric parameters of 00_scope.md R11 to R19 and the
register value codes that 30_encoding.md R95 to R101 leave OPEN; and the free values.
The spec says "a model takes it as an argument" (00_scope.md R20; 30_encoding.md section 7), so a value of
`Params` is a field of the machine's state that no step writes (log 4). -/

namespace Sys2Proof

/-- The parameters the model takes as arguments. Counts are naturals (R20); the codes are the bytes written on the bus. -/
structure Params where
  /-- RX_CAPACITY, R11. -/
  rxCapacity : Nat
  /-- RX_MAX_WAIT, the short budget, R12. -/
  rxMaxWait : Nat
  /-- RX_LONG_WAIT, the long budget, R13. -/
  rxLongWait : Nat
  /-- TX_SINGLE_BURST_MAX, R14. -/
  txSingleBurstMax : Nat
  /-- FLUSH_MAX_ITER, R15. -/
  flushMaxIter : Nat
  /-- FLUSH_CHUNK, R16. -/
  flushChunk : Nat
  /-- SETTLE_SPIN, R17. -/
  settleSpin : Nat
  /-- RX_POLL_DELAY, R18. -/
  rxPollDelay : Nat
  /-- DIVISOR, 16 bits, R19 and R102. -/
  divisor : Word
  /-- EFCR_BOTH_DISABLE, R95. -/
  efcrBothDisable : Byte
  /-- EFCR_RX_ONLY, R96. -/
  efcrRxOnly : Byte
  /-- EFCR_TX_ONLY, R97. -/
  efcrTxOnly : Byte
  /-- FCR_RESET_ENABLE, R98. -/
  fcrResetEnable : Byte
  /-- IER_SLEEP_OFF, R99. -/
  ierSleepOff : Byte
  /-- IER_SLEEP_ON, R99. -/
  ierSleepOn : Byte
  /-- LCR_DLAB, R100. -/
  lcrDlab : Byte
  /-- LCR_8N1, R100. -/
  lcr8n1 : Byte
  /-- LSR_TX_EMPTY_MASK, R101. -/
  lsrTxEmptyMask : Byte
  deriving DecidableEq, Repr

/-- "with exactly one bit set" (R101). -/
def HasOneBit (m : Byte) : Prop := ∃ i : Fin 8, m = BitVec.twoPow 8 i.val

/-- The legal ranges of R11 to R19 (R19's is the type's), and R101's condition on the line-status mask. -/
structure Params.Legal (p : Params) : Prop where
  rxCapacity_pos : 1 ≤ p.rxCapacity
  rxCapacity_le : p.rxCapacity ≤ 255
  rxMaxWait_le : p.rxMaxWait ≤ 65535
  rxLongWait_le : p.rxLongWait ≤ 65535
  txSingleBurstMax_le : p.txSingleBurstMax ≤ 255
  flushMaxIter_le : p.flushMaxIter ≤ 255
  flushChunk_pos : 1 ≤ p.flushChunk
  flushChunk_le : p.flushChunk ≤ 255
  settleSpin_le : p.settleSpin ≤ 65535
  rxPollDelay_le : p.rxPollDelay ≤ 65535
  lsrTxEmptyMask_oneBit : HasOneBit p.lsrTxEmptyMask

/-- FREE VALUES (log 3, log 5): the `k`-th value nothing fixes: a bus read answered by an environment of which nothing
is said (R48), or a stale byte of the receive buffer (R45). -/
opaque Config.draw : Nat → Byte

/-- FREE VALUES (log 4): the OPEN codes of the block that leaves reset (R95 to R100). -/
opaque Config.efcrBothDisable : Byte
opaque Config.efcrRxOnly : Byte
opaque Config.efcrTxOnly : Byte
opaque Config.fcrResetEnable : Byte
opaque Config.ierSleepOff : Byte
opaque Config.ierSleepOn : Byte
opaque Config.lcrDlab : Byte
opaque Config.lcr8n1 : Byte

/-- FREE VALUE (log 4): which line-status bit means "transmitter and holding register both empty" (R101). -/
opaque Config.lsrTxEmptyBit : Fin 8

/-- The parameters of the block that leaves reset: the source's values for R11 to R19, free values for the OPEN codes. -/
def Config.source : Params where
  rxCapacity := 136
  rxMaxWait := 40
  rxLongWait := 1000
  txSingleBurstMax := 64
  flushMaxIter := 32
  flushChunk := 64
  settleSpin := 20000
  rxPollDelay := 300
  divisor := 10#16
  efcrBothDisable := Config.efcrBothDisable
  efcrRxOnly := Config.efcrRxOnly
  efcrTxOnly := Config.efcrTxOnly
  fcrResetEnable := Config.fcrResetEnable
  ierSleepOff := Config.ierSleepOff
  ierSleepOn := Config.ierSleepOn
  lcrDlab := Config.lcrDlab
  lcr8n1 := Config.lcr8n1
  lsrTxEmptyMask := BitVec.twoPow 8 Config.lsrTxEmptyBit.val

end Sys2Proof
end

