-- ==== Sys2Proof/Syntax.lean ====
section
/-! DEFINITION. The commands (00_scope.md R3, opcode_table.json) and what the command port carries (30_encoding.md R74). -/

namespace Sys2Proof

/-- What the caller puts on the command port: a 16-bit word and, for SEND, payload bytes (R74). -/
structure Command where
  word : Word
  payload : List Byte
  deriving DecidableEq, Repr

/-- The five commands: one constructor per row of opcode_table.json. -/
inductive Instr where
  /-- INIT, R109. -/
  | init
  /-- BEGIN, R113. -/
  | beginSession
  /-- END, R115. -/
  | endSession
  /-- SEND len, p[0..len), R118, R82. -/
  | send (len : Byte) (payload : List Byte)
  /-- RECV, R127. -/
  | recv
  deriving DecidableEq, Repr

end Sys2Proof
end

