-- ==== Sys2Proof/WellFormed.lean ====
section
/-! DEFINITION. The commands the source's interface can express (30_encoding.md R87, R88), for a block of receive
capacity `cap`. -/

namespace Sys2Proof

/-- "SEND with `len > RX_CAPACITY` is outside the source's contract" (R87). -/
def Instr.lengthInRange (cap : Nat) : Instr → Bool
  | .send len _ => decide (len.toNat ≤ cap)
  | .init | .beginSession | .endSession | .recv => true

/-- "exactly `len` payload bytes" (R82, R88). -/
def Instr.payloadMatches : Instr → Bool
  | .send len payload => decide (payload.length = len.toNat)
  | .init | .beginSession | .endSession | .recv => true

/-- A command the decoder can give at capacity `cap`. -/
def Instr.wellFormed (cap : Nat) (i : Instr) : Bool := i.lengthInRange cap && i.payloadMatches

end Sys2Proof
end

