-- ==== Sys2Proof/Decode.lean ====
section
/-! DEFINITION. The decoder of the command port, total on every word and payload, and the encoder
(30_encoding.md R77 to R89; the order of the checks is 60_exceptions.md R139, checks 1 to 4). -/

namespace Sys2Proof

/-- Why the decoder rejects a command (R85 to R88). -/
inductive Reject where
  /-- R85: the opcode is not in 0x01 to 0x05. -/
  | illegalOpcode
  /-- R86: a C0 word with a nonzero length field. -/
  | reservedOperand
  /-- R87: a SEND longer than RX_CAPACITY. -/
  | lengthRange
  /-- R88: a SEND whose payload does not hold `len` bytes. -/
  | payloadCount
  deriving DecidableEq, Repr

/-- `op = w[15:8]` (R80). -/
def opField (w : Word) : Byte := w.extractLsb' 8 8

/-- `len = w[7:0]` (R80). -/
def lenField (w : Word) : Byte := w.extractLsb' 0 8

/-- `{op, len}` (R80). -/
def commandWord (op len : Byte) : Word := op ++ len

/-- The opcode of SEND, the one C1 command (R77, R79). -/
def sendOpcode : Byte := 0x04#8

/-- The opcode map of R79. -/
def Instr.opcode : Instr → Byte
  | .init => 0x01#8
  | .beginSession => 0x02#8
  | .endSession => 0x03#8
  | .send _ _ => sendOpcode
  | .recv => 0x05#8

/-- The C0 rows of the opcode map (R79): the command of an opcode that takes no operand. -/
def c0Command (op : Byte) : Option Instr :=
  if op = 0x01#8 then some .init
  else if op = 0x02#8 then some .beginSession
  else if op = 0x03#8 then some .endSession
  else if op = 0x05#8 then some .recv
  else none

/-- Decoding for a block of receive capacity `cap`: the opcode first, then the length field against the format, then
the payload (R80, R139). A C0 command reads no payload (R84; log 9). -/
def decode (cap : Nat) (c : Command) : Except Reject Instr :=
  let len := lenField c.word
  if opField c.word = sendOpcode then
    if cap < len.toNat then .error .lengthRange
    else if c.payload.length ≠ len.toNat then .error .payloadCount
    else .ok (.send len c.payload)
  else
    match c0Command (opField c.word) with
    | none => .error .illegalOpcode
    | some i => if len ≠ 0#8 then .error .reservedOperand else .ok i

/-- The length field of a command's word (R77, R82, R83). -/
def Instr.lenOperand : Instr → Byte
  | .send len _ => len
  | .init | .beginSession | .endSession | .recv => 0#8

/-- The payload that goes with a command's word (R77, R82). -/
def Instr.payloadBytes : Instr → List Byte
  | .send _ payload => payload
  | .init | .beginSession | .endSession | .recv => []

/-- The command word of a command (R77, R80). -/
def Instr.word (i : Instr) : Word := commandWord i.opcode i.lenOperand

/-- The encoder: what a caller presents on the command port to give the command (R77). -/
def encode (i : Instr) : Command := ⟨i.word, i.payloadBytes⟩

/-- The command whose bits are `w`, numbered as opcode_table.json numbers them: bits 15..0 are the command word, the
payload bytes follow from bit 16 up, the first lowest; bits above `nbits` are zero (log 9). -/
def tableCommand (nbits w : Nat) : Command :=
  let bits := w % 2 ^ nbits
  let word := BitVec.ofNat 16 bits
  let count := if opField word = sendOpcode then (lenField word).toNat else 0
  ⟨word, (List.range count).map fun j => BitVec.ofNat 8 (bits >>> (16 + 8 * j))⟩

/-- The command the decoder of the block that leaves reset reads from a row of the opcode table. -/
def decodeTableWord (nbits w : Nat) : Option Instr :=
  (decode Config.source.rxCapacity (tableCommand nbits w)).toOption

end Sys2Proof
end

