-- ==== Sys2Proof/Machine/State.lean ====
section
/-! DEFINITION. The state of the block (10_state.md) as plain data, its positions (R31), the reasons a step can stop,
and the state after reset (R50). -/

namespace Sys2Proof.Machine

/-- Why a step stops the MODEL. The spec's own faults (R138) are no such stop: they are next states with
`phase = HALTED` (R140). -/
inductive Fault where
  /-- Raised by RXWAIT's buffer write when MemWrite is not given what R58 requires (`i + n <= RX_CAPACITY`,
  `len(bs) = n`). No state the block reaches raises it (R132). Safe (log 7). -/
  | memWriteRange
  deriving DecidableEq, Repr

/-- Why an instruction is refused. -/
inductive Refusal where
  /-- Raised by an arm of `exec` whose instruction has no meaning yet; no arm of this model raises it. Safe. -/
  | notModelled (mnemonic : String)
  deriving DecidableEq, Repr

/-- The six fault causes of R138. -/
inductive FaultCode where
  | illegalOpcode
  | reservedOperand
  | lengthRange
  | payloadCount
  | outsideSession
  | bufferIndex
  deriving DecidableEq, Repr

/-- What FAULT_INFO records (R138, last column). -/
inductive FaultInfo where
  /-- The command word. -/
  | word (w : Word)
  /-- The command word and the payload count. -/
  | wordAndCount (w : Word) (count : Nat)
  /-- The index and length of a buffer read. -/
  | span (i n : Nat)
  deriving DecidableEq, Repr

/-- One event of the bus trace (30_encoding.md R91). -/
inductive BusEvent where
  /-- `WR a v`. -/
  | wr (a v : Byte)
  /-- `RD a -> v`. -/
  | rd (a v : Byte)
  /-- `RB a n -> [..]`. -/
  | rb (a n : Byte) (bytes : List Byte)
  /-- `WB a [..]`. -/
  | wb (a : Byte) (bytes : List Byte)
  deriving DecidableEq, Repr

/-- A completion on the command port (R74, R76). -/
inductive Completion where
  /-- INIT, BEGIN, END and SEND complete with no value. -/
  | done
  /-- RECV completes with an 8-bit count. -/
  | count (r : Byte)
  deriving DecidableEq, Repr

/-- What the caller puts on the block's ports (R73): a command, or a buffer read `BUFRD i, n` (R129). -/
inductive Request where
  | command (c : Command)
  | bufRead (i n : Nat)
  deriving DecidableEq, Repr

/-- The environment's next answers, one queue per register it answers, oldest first (log 3). -/
structure Env where
  lineStatus : List Byte
  txLevels : List Byte
  rxLevels : List Byte
  fifo : List Byte
  deriving DecidableEq, Repr

/-- The working registers (R28), and RXWAIT's `bs` (R125). -/
structure Work where
  total : Word
  rb : Word
  iw : Word
  level : Word
  n : Word
  offset : Word
  remaining : Word
  k : Word
  lsr : Word
  count : Word
  bs : List Byte
  deriving DecidableEq, Repr

/-- Positions of DIVPROG (R106): before each of its four writes. -/
inductive DivPos where
  | dlabOn
  | low
  | high
  | dlabOff
  deriving DecidableEq, Repr

/-- Positions of REARM (R107). -/
inductive RearmPos where
  | fifo
  | receiver
  deriving DecidableEq, Repr

/-- Positions of FLUSH (R108): before its level read and before its burst. -/
inductive FlushPos where
  | poll
  | burst
  deriving DecidableEq, Repr

/-- BRINGUP runs DIVPROG, REARM and FLUSH twice (R105, steps 6 to 9 and step 10). -/
inductive Pass where
  | first
  | second
  deriving DecidableEq, Repr

/-- Positions of BRINGUP (R105). -/
inductive BringupPos where
  | disable
  | fifoOff
  | sleepOff
  | pins
  | settleFirst
  | divprog (q : Pass) (p : DivPos)
  | rearm (q : Pass) (p : RearmPos)
  | settleSecond
  | flush (q : Pass) (p : FlushPos)
  deriving DecidableEq, Repr

/-- Positions of TXQUEUE (R120). -/
inductive TxPos where
  | single
  | poll
  | burst
  deriving DecidableEq, Repr

/-- Positions of RXWAIT (R125). -/
inductive RxPos where
  | poll
  | pause
  | reread
  | burst
  | store
  deriving DecidableEq, Repr

/-- Positions of INIT (R109). -/
inductive InitPos where
  | bringup (p : BringupPos)
  | finish
  deriving DecidableEq, Repr

/-- Positions of BEGIN (R113). -/
inductive BeginPos where
  | bringup (p : BringupPos)
  | sleepOff
  | pins
  | fifo
  | finish
  deriving DecidableEq, Repr

/-- Positions of END (R115). -/
inductive EndPos where
  | fifo
  | sleepOn
  | pins
  | finish
  deriving DecidableEq, Repr

/-- Positions of SEND (R118). -/
inductive SendPos where
  | txOn
  | queue (p : TxPos)
  | drain
  | rxOn
  | listen (p : RxPos)
  | finish
  deriving DecidableEq, Repr

/-- Positions of RECV (R127). -/
inductive RecvPos where
  | cached
  | rearm (p : RearmPos)
  | listen (p : RxPos)
  | finish
  deriving DecidableEq, Repr

/-- The pair (cmd, pos) of `BUSY(cmd, pos)` (R31): a command, with the operands SEND keeps while it runs (R82), and a
point of that command's own pseudocode. -/
inductive Running where
  | init (p : InitPos)
  | beginSession (p : BeginPos)
  | endSession (p : EndPos)
  | send (len : Byte) (payload : List Byte) (p : SendPos)
  | recv (p : RecvPos)
  deriving DecidableEq, Repr

/-- The sequencer control state S4 (R31). -/
inductive Phase where
  | idle
  | busy (r : Running)
  | halted
  deriving DecidableEq, Repr

/-- The state of the block, of its ports, and of what has been observed of it. INVENTORY.md lists every field with its
rule. -/
structure State where
  /-- The parameters the model takes as arguments (R20; log 4). -/
  cfg : Params
  /-- S4 (R31, R38). -/
  phase : Phase
  /-- S0 INITIALIZED (R34). -/
  initialized : Bool
  /-- S1 PENDING (R35). -/
  pending : Byte
  /-- S2 IN_SESSION (R36). -/
  inSession : Bool
  /-- S3 FAULT (R37). -/
  fault : BitVec 3
  /-- FAULT_INFO (R37). -/
  faultInfo : Option FaultInfo
  /-- The receive buffer (R44) as (index, byte) cells, in Ops' canonical form. -/
  buf : List Host.Cell
  /-- How many leading bytes of the buffer are defined (R45, R129; log 5). -/
  bufDefined : Nat
  /-- The working registers (R28). -/
  work : Work
  /-- The bus trace, in issue order (R57). -/
  trace : List BusEvent
  /-- The separate log of spins, which no claim reads (R92; log 10). -/
  spins : List Nat
  /-- The completions given on the command port, in order (R76; log 11). -/
  completions : List Completion
  /-- The answers of the buffer read port, in order (R129; log 11). -/
  bufReads : List (List Byte)
  /-- What the caller has presented and the block has not taken, oldest first (R75; log 2). -/
  requests : List Request
  /-- The environment's next answers (R47, R48; log 3). -/
  env : Env
  /-- How many free values have been drawn (log 3). -/
  draws : Nat
  deriving DecidableEq, Repr

/-- R29: the working registers have no reset value; zero is this model's choice (DESIGN CHOICE, log 6). -/
def Work.reset : Work where
  total := 0#16
  rb := 0#16
  iw := 0#16
  level := 0#16
  n := 0#16
  offset := 0#16
  remaining := 0#16
  k := 0#16
  lsr := 0#16
  count := 0#16
  bs := []

/-- No answer is fixed at reset: every read is a free value (DESIGN CHOICE, log 3). -/
def Env.reset : Env where
  lineStatus := []
  txLevels := []
  rxLevels := []
  fifo := []

/-- The block after reset (R50, R157): it waits in IDLE, nothing is presented, no bus primitive has been issued. -/
def State.reset : State where
  cfg := Config.source
  phase := .idle
  initialized := false
  pending := 0#8
  inSession := false
  fault := 0#3
  faultInfo := none
  buf := []
  bufDefined := 0
  work := Work.reset
  trace := []
  spins := []
  completions := []
  bufReads := []
  requests := []
  env := Env.reset
  draws := 0

end Sys2Proof.Machine
end

