-- ==== Sys2Proof/Machine/Operands.lean ====
section
/-! DEFINITION. Operand forms (30_encoding.md R81, R82, R102) and the widening and narrowing between bytes, 16-bit
working registers and natural numbers (00_scope.md R21). -/

namespace Sys2Proof.Machine

/-- `zext_16` (R21, R81). -/
def zext16 (v : Byte) : Word := v.setWidth 16

/-- The low eight bits of a working register: a burst's count on the bus, or a result (R28, R76, R91). -/
def lowByte (v : Word) : Byte := v.setWidth 8

/-- A natural number within a working register's range (R28). -/
def toWord (v : Nat) : Word := BitVec.ofNat 16 v

/-- `min(a, b)` of a working register and a natural (R21). -/
def minWord (a : Word) (b : Nat) : Word := toWord (min a.toNat b)

/-- `DLL_VALUE = DIVISOR[7:0]` (R102). -/
def dllValue (p : Params) : Byte := p.divisor.extractLsb' 0 8

/-- `DLH_VALUE = DIVISOR[15:8]` (R102). -/
def dlhValue (p : Params) : Byte := p.divisor.extractLsb' 8 8

/-- `p[offset..offset+n)` (R21, R120). -/
def payloadSlice (payload : List Byte) (offset n : Word) : List Byte :=
  (payload.drop offset.toNat).take n.toNat

end Sys2Proof.Machine
end

