-- ==== Sys2Proof/Machine/Flags.lean ====
section
/-! DEFINITION. The block has no condition codes and no arithmetic flags (10_state.md R33). What it tests are two status
indications of the peripheral and the conditions of its loops; they are computed here. -/

namespace Sys2Proof.Machine

/-- "transmitter and holding register both empty": `(lsr & LSR_TX_EMPTY_MASK) != 0` (R41, R121). -/
abbrev txEmpty (cfg : Params) (lsr : Word) : Prop := lsr &&& zext16 cfg.lsrTxEmptyMask ≠ 0#16

/-- `len <= TX_SINGLE_BURST_MAX` (R120). -/
abbrev fitsSingleBurst (cfg : Params) (len : Byte) : Prop := len.toNat ≤ cfg.txSingleBurstMax

/-- FLUSH's `for k in 0..FLUSH_MAX_ITER-1` has another pass (R25, R108). -/
abbrev flushAgain (cfg : Params) (w : Work) : Prop := w.k.toNat < cfg.flushMaxIter

/-- TXQUEUE's `remaining != 0` (R120). -/
abbrev queueAgain (w : Work) : Prop := w.remaining ≠ 0#16

/-- RXWAIT's wait condition after its read: the level read is 0 and `iw < rb` (R125, D21). -/
abbrev waitAgain (v : Byte) (w : Work) : Prop := v = 0#8 ∧ w.iw < w.rb

/-- RXWAIT's `iw == rb`: no data within the budget (R125). -/
abbrev waitExpired (w : Work) : Prop := w.iw = w.rb

/-- RXWAIT's `total >= RX_CAPACITY` (R125). -/
abbrev bufferFull (cfg : Params) (w : Work) : Prop := cfg.rxCapacity ≤ w.total.toNat

end Sys2Proof.Machine
end

