-- ==== Sys2Proof/Machine/Ops.lean ====
section
/-! DEFINITION. The named operations of the block: the bus primitives (20_memory.md R53 to R57), the buffer primitives
(R58), spin (00_scope.md R24), entering a position, completing a command, and raising a fault (60_exceptions.md R140).
There is no return from a fault (R141). -/

namespace Sys2Proof.Machine

/-! The peripheral's registers as the block names them (00_scope.md R26, 30_encoding.md R93). -/

/-- The eleven register names of R26. -/
inductive Reg where
  | fifo
  | dll
  | ier
  | dlh
  | fcr
  | lcr
  | lsr
  | txlvl
  | rxlvl
  | iostate
  | efcr
  deriving DecidableEq, Repr

/-- The fixed offsets of R93; two pairs of names share one (R66). -/
def Reg.offset : Reg → Byte
  | .fifo => 0x00#8
  | .dll => 0x00#8
  | .ier => 0x08#8
  | .dlh => 0x08#8
  | .fcr => 0x10#8
  | .lcr => 0x18#8
  | .lsr => 0x28#8
  | .txlvl => 0x40#8
  | .rxlvl => 0x48#8
  | .iostate => 0x58#8
  | .efcr => 0x78#8

/-- `FCR_DISABLE` (R98). -/
def fcrDisable : Byte := 0x00#8

/-- `FCR_RESET_DISABLE` (R98). -/
def fcrResetDisable : Byte := 0x06#8

/-- `IOSTATE_ACTIVE` (R103). -/
def iostateActive : Byte := 0x00#8

/-- `IOSTATE_IDLE` (R103). -/
def iostateIdle : Byte := 0x01#8

/-- `IOSTATE_BRINGUP` (R103). -/
def iostateBringup : Byte := 0x00#8

/-! The receive buffer's storage: cells with strictly rising index. An index that is not listed holds no byte. -/

/-- What an unlisted index reads as: no value; the port answers such a byte with a draw (R45, R50; log 5). -/
def Memory.unlisted : Option Byte := none

/-- The stored byte at an index. -/
def Memory.get : List Host.Cell → Nat → Option Byte
  | [], _ => Memory.unlisted
  | (b, v) :: m, a => if a = b then some v else Memory.get m a

/-- Store one byte. -/
def Memory.set : List Host.Cell → Nat → Byte → List Host.Cell
  | [], a, v => [(a, v)]
  | (b, u) :: m, a, v =>
    if a < b then (a, v) :: (b, u) :: m
    else if a = b then (a, v) :: m
    else (b, u) :: Memory.set m a v

/-- `buf[i + j] <- bs[j]` for every `j` (R58). -/
def Memory.setBytes : List Host.Cell → Nat → List Byte → List Host.Cell
  | m, _, [] => m
  | m, i, b :: bs => Memory.setBytes (Memory.set m i b) (i + 1) bs

/-- The canonical form: indices strictly rising. (No byte equals "no value", so no entry is to be left out.) -/
def Memory.wf : List Host.Cell → Bool
  | [] => true
  | [_] => true
  | (a, _) :: (b, v) :: m => decide (a < b) && Memory.wf ((b, v) :: m)

/-- Every listed index lies in a buffer of `cap` bytes (R44). -/
def Memory.within (cap : Nat) (m : List Host.Cell) : Bool := m.all fun c => decide (c.1 < cap)

/-! Draws: the values nothing fixes (R48, R45). -/

/-- The next free value. -/
def State.draw (s : State) : Byte × State := (Config.draw s.draws, { s with draws := s.draws + 1 })

/-- The oldest answer the environment has ready for a register, and the queues without it. -/
def Env.pop (e : Env) : Reg → Option (Byte × Env)
  | .fifo => match e.fifo with
    | [] => none
    | v :: vs => some (v, { e with fifo := vs })
  | .lsr => match e.lineStatus with
    | [] => none
    | v :: vs => some (v, { e with lineStatus := vs })
  | .txlvl => match e.txLevels with
    | [] => none
    | v :: vs => some (v, { e with txLevels := vs })
  | .rxlvl => match e.rxLevels with
    | [] => none
    | v :: vs => some (v, { e with rxLevels := vs })
  | .dll | .ier | .dlh | .fcr | .lcr | .iostate | .efcr => none

/-- The environment's answer to one read of a register: unconstrained (R48; log 3). -/
def State.answer (s : State) (r : Reg) : Byte × State :=
  match s.env.pop r with
  | some (v, e) => (v, { s with env := e })
  | none => s.draw

/-- `n` answers in a row from one register (R55). -/
def State.answers (r : Reg) : Nat → State → List Byte × State
  | 0, s => ([], s)
  | n + 1, s =>
    let a := s.answer r
    let rest := State.answers r n a.2
    (a.1 :: rest.1, rest.2)

/-- Append one event to the bus trace (R57). -/
def State.record (s : State) (e : BusEvent) : State := { s with trace := s.trace ++ [e] }

/-! Bus primitives. -/

/-- `readByte(a)` (R53). -/
def State.readByte (s : State) (r : Reg) : Byte × State :=
  let a := s.answer r
  (a.1, a.2.record (.rd r.offset a.1))

/-- `writeByte(a, v)` (R54). -/
def State.writeByte (s : State) (r : Reg) (v : Byte) : State := s.record (.wr r.offset v)

/-- `readBurst(a, n)`: exactly `n` bytes (R55), 0 to 255 of them (R62; log 8). -/
def State.readBurst (s : State) (r : Reg) (n : Byte) : List Byte × State :=
  let a := State.answers r n.toNat s
  (a.1, a.2.record (.rb r.offset n a.1))

/-- `writeBurst(a, bs)` (R56). -/
def State.writeBurst (s : State) (r : Reg) (bs : List Byte) : State := s.record (.wb r.offset bs)

/-! Buffer primitives. -/

/-- `MemWrite(i, n, bs)` (R58), or none where its requirement is not met. -/
def State.memWrite (s : State) (i n : Nat) (bs : List Byte) : Option State :=
  if i + n ≤ s.cfg.rxCapacity ∧ bs.length = n then
    some { s with buf := Memory.setBytes s.buf i bs }
  else none

/-- The byte the caller reads at one index: the stored byte where it is defined, a draw where it is stale (R45, R129). -/
def State.bufByte (s : State) (i : Nat) : Byte × State :=
  match if i < s.bufDefined then Memory.get s.buf i else Memory.unlisted with
  | some v => (v, s)
  | none => s.draw

/-- `MemRead(i, n)` (R58): the bytes from index `i` up. -/
def State.memRead : Nat → Nat → State → List Byte × State
  | _, 0, s => ([], s)
  | i, n + 1, s =>
    let a := s.bufByte i
    let rest := State.memRead (i + 1) n a.2
    (a.1 :: rest.1, rest.2)

/-! Other primitives. -/

/-- `spin(n)`: no state of the block changes and no bus event is issued (R24, R174); the separate log of R92 gets `n`. -/
def State.spin (s : State) (n : Nat) : State := { s with spins := s.spins ++ [n] }

/-- A write of working registers, `r <- v` (R24). -/
def State.setWork (s : State) (w : Work) : State := { s with work := w }

/-- `phase <- BUSY(cmd, pos)` (R24, R32). -/
def State.goTo (s : State) (r : Running) : State := { s with phase := .busy r }

/-- The end of a command: its result goes out on the command port and `phase <- IDLE` (R32, R76). -/
def State.complete (s : State) (c : Completion) : State :=
  { s with completions := s.completions ++ [c], phase := .idle }

/-- The number of a fault cause (R138). -/
def FaultCode.code : FaultCode → BitVec 3
  | .illegalOpcode => 1#3
  | .reservedOperand => 2#3
  | .lengthRange => 3#3
  | .payloadCount => 4#3
  | .outsideSession => 5#3
  | .bufferIndex => 6#3

/-- `raise Fault(code)` (R140): three fields change, nothing else. -/
def State.raiseFault (s : State) (c : FaultCode) (info : FaultInfo) : State :=
  { s with fault := c.code, faultInfo := some info, phase := .halted }

/-! Procedure calls: a procedure's step answers the position it goes on at, or none when it has returned. -/

/-- Go on inside a called procedure, or behind the call. -/
def callProc {π σ : Type} (r : Option π × State) (inside : π → State → σ) (behind : State → σ) : σ :=
  match r.1 with
  | some p => inside p r.2
  | none => behind r.2

/-- The same where a step of the procedure can stop the model. -/
def mapNext {α β : Type} (f : α → β) : Host.Outcome α Fault Refusal → Host.Outcome β Fault Refusal
  | .next a => .next (f a)
  | .fault r => .fault r
  | .refused r => .refused r

end Sys2Proof.Machine
end

