-- ==== Sys2Proof/Machine/Bringup.lean ====
section
/-! DEFINITION. BRINGUP and its procedures DIVPROG, REARM and FLUSH, and the command INIT (40_bringup.md). -/

namespace Sys2Proof.Machine

/-- DIVPROG (R106): one write a step. -/
def divprogStep (p : DivPos) (s : State) : Option DivPos × State :=
  match p with
  | .dlabOn => (some .low, s.writeByte .lcr s.cfg.lcrDlab)
  | .low => (some .high, s.writeByte .dll (dllValue s.cfg))
  | .high => (some .dlabOff, s.writeByte .dlh (dlhValue s.cfg))
  | .dlabOff => (none, s.writeByte .lcr s.cfg.lcr8n1)

/-- REARM (R107): the FIFO write first, then receiver only. -/
def rearmStep (p : RearmPos) (s : State) : Option RearmPos × State :=
  match p with
  | .fifo => (some .receiver, s.writeByte .fcr s.cfg.fcrResetEnable)
  | .receiver => (none, s.writeByte .efcr s.cfg.efcrRxOnly)

/-- The head of FLUSH's loop (R108): another pass, or the procedure has returned. -/
def flushHead (s : State) : Option FlushPos × State :=
  (if flushAgain s.cfg s.work then some .poll else none, s)

/-- Enter FLUSH: `k` starts at 0 (R25, R108). -/
def flushEnter (s : State) : Option FlushPos × State := flushHead (s.setWork { s.work with k := 0#16 })

/-- FLUSH (R108): read the level; where it is not 0, read and discard at most FLUSH_CHUNK bytes. -/
def flushStep (p : FlushPos) (s : State) : Option FlushPos × State :=
  match p with
  | .poll =>
    let a := s.readByte .rxlvl
    let level := zext16 a.1
    if a.1 = 0#8 then (none, a.2.setWork { a.2.work with level := level })
    else (some .burst, a.2.setWork { a.2.work with level := level, n := minWord level a.2.cfg.flushChunk })
  | .burst =>
    let a := s.readBurst .fifo (lowByte s.work.n)
    flushHead (a.2.setWork { a.2.work with k := a.2.work.k + 1#16 })

/-- What follows a FLUSH in BRINGUP (R105): step 10, or the end. -/
def bringupAfterFlush (q : Pass) (s : State) : Option BringupPos × State :=
  match q with
  | .first => (some (.divprog .second .dlabOn), s)
  | .second => (none, s)

/-- Enter BRINGUP's FLUSH (R105 steps 9 and 10); with FLUSH_MAX_ITER = 0 it issues nothing (R108). -/
def bringupFlush (q : Pass) (s : State) : Option BringupPos × State :=
  callProc (flushEnter s) (fun p t => (some (.flush q p), t)) (bringupAfterFlush q)

/-- BRINGUP (R105). -/
def bringupStep (p : BringupPos) (s : State) : Option BringupPos × State :=
  match p with
  | .disable => (some .fifoOff, s.writeByte .efcr s.cfg.efcrBothDisable)
  | .fifoOff => (some .sleepOff, s.writeByte .fcr fcrDisable)
  | .sleepOff => (some .pins, s.writeByte .ier s.cfg.ierSleepOff)
  | .pins => (some .settleFirst, s.writeByte .iostate iostateBringup)
  | .settleFirst => (some (.divprog .first .dlabOn), s.spin s.cfg.settleSpin)
  | .divprog q d =>
    callProc (divprogStep d s) (fun d' t => (some (.divprog q d'), t)) (fun t => (some (.rearm q .fifo), t))
  | .rearm q r =>
    callProc (rearmStep r s) (fun r' t => (some (.rearm q r'), t)) fun t =>
      match q with
      | .first => (some .settleSecond, t)
      | .second => bringupFlush .second t
  | .settleSecond => bringupFlush .first (s.spin s.cfg.settleSpin)
  | .flush q f => callProc (flushStep f s) (fun f' t => (some (.flush q f'), t)) (bringupAfterFlush q)

/-- One step of a running INIT (R109). -/
def initStep (p : InitPos) (s : State) : State :=
  match p with
  | .bringup b =>
    callProc (bringupStep b s) (fun b' t => t.goTo (.init (.bringup b'))) (fun t => t.goTo (.init .finish))
  | .finish => ({ s with initialized := true }).complete .done

/-- INIT (R109): taken in IDLE, then one primitive a step (R32). While another command runs it is held (R75), and in
HALTED it waits for ever (R75). -/
def execInit (s : State) : Host.Outcome State Fault Refusal :=
  match s.phase with
  | .idle => .next (s.goTo (.init (.bringup .disable)))
  | .busy (.init p) => .next (initStep p s)
  | .busy (.beginSession _) | .busy (.endSession _) | .busy (.send _ _ _) | .busy (.recv _) => .next s
  | .halted => .next s

end Sys2Proof.Machine
end

