-- ==== Sys2Proof/Machine/Session.lean ====
section
/-! DEFINITION. The commands BEGIN and END (41_session.md). -/

namespace Sys2Proof.Machine

/-- Where BEGIN starts: at bring-up while INITIALIZED is 0 (R113). -/
def beginEntry (s : State) : BeginPos := if s.initialized then .sleepOff else .bringup .disable

/-- One step of a running BEGIN (R113). Every byte of the buffer is stale from its end on (R113; log 5). -/
def beginStep (p : BeginPos) (s : State) : State :=
  match p with
  | .bringup b =>
    callProc (bringupStep b s) (fun b' t => t.goTo (.beginSession (.bringup b')))
      (fun t => ({ t with initialized := true }).goTo (.beginSession .sleepOff))
  | .sleepOff => (s.writeByte .ier s.cfg.ierSleepOff).goTo (.beginSession .pins)
  | .pins => (s.writeByte .iostate iostateActive).goTo (.beginSession .fifo)
  | .fifo => (s.writeByte .fcr s.cfg.fcrResetEnable).goTo (.beginSession .finish)
  | .finish => ({ s with pending := 0#8, inSession := true, bufDefined := 0 }).complete .done

/-- BEGIN (R113, R114). -/
def execBegin (s : State) : Host.Outcome State Fault Refusal :=
  match s.phase with
  | .idle => .next (s.goTo (.beginSession (beginEntry s)))
  | .busy (.beginSession p) => .next (beginStep p s)
  | .busy (.init _) | .busy (.endSession _) | .busy (.send _ _ _) | .busy (.recv _) => .next s
  | .halted => .next s

/-- One step of a running END (R115). -/
def endStep (p : EndPos) (s : State) : State :=
  match p with
  | .fifo => (s.writeByte .fcr fcrResetDisable).goTo (.endSession .sleepOn)
  | .sleepOn => (s.writeByte .ier s.cfg.ierSleepOn).goTo (.endSession .pins)
  | .pins => (s.writeByte .iostate iostateIdle).goTo (.endSession .finish)
  | .finish => ({ s with inSession := false }).complete .done

/-- END (R115, R116). -/
def execEnd (s : State) : Host.Outcome State Fault Refusal :=
  match s.phase with
  | .idle => .next (s.goTo (.endSession .fifo))
  | .busy (.endSession p) => .next (endStep p s)
  | .busy (.init _) | .busy (.beginSession _) | .busy (.send _ _ _) | .busy (.recv _) => .next s
  | .halted => .next s

end Sys2Proof.Machine
end

