-- ==== Sys2Proof/Machine/Receive.lean ====
section
/-! DEFINITION. RXWAIT and the command RECV (43_receive.md). -/

namespace Sys2Proof.Machine

/-- Enter RXWAIT(B): `total`, `rb` and `iw` are set before its first read (R125). -/
def rxwaitEnter (budget : Nat) (s : State) : Option RxPos × State :=
  (some .poll, s.setWork { s.work with total := 0#16, rb := toWord budget, iw := 0#16 })

/-- RXWAIT ends: `count <- total` (R125). -/
def rxwaitReturn (s : State) : Option RxPos × State := (none, s.setWork { s.work with count := s.work.total })

/-- The wait's test after its read of RX-level (R125, R126): pause and count, or give up, or go for the data with the
short budget from now on. -/
def rxwaitPolled (v : Byte) (s : State) : Option RxPos × State :=
  if waitAgain v s.work then (some .pause, s)
  else if waitExpired s.work then rxwaitReturn s
  else (some .reread, s.setWork { s.work with rb := toWord s.cfg.rxMaxWait })

/-- After MemWrite: `total <- total + n`, and either the buffer is full or the next wait begins at `iw = 0` (R125). -/
def rxwaitStored (s : State) : Option RxPos × State :=
  let t := s.setWork { s.work with total := s.work.total + s.work.n }
  if bufferFull t.cfg t.work then rxwaitReturn t
  else (some .poll, t.setWork { t.work with iw := 0#16 })

/-- The re-read level and the burst it gives, clamped to the buffer's free space (R125). -/
def rxwaitLevel (v : Byte) (s : State) : State :=
  s.setWork { s.work with
    level := zext16 v
    n := minWord (zext16 v) (s.cfg.rxCapacity - s.work.total.toNat) }

/-- RXWAIT (R125). -/
def rxwaitStep (p : RxPos) (s : State) : Host.Outcome (Option RxPos × State) Fault Refusal :=
  match p with
  | .poll =>
    let a := s.readByte .rxlvl
    .next (rxwaitPolled a.1 a.2)
  | .pause =>
    let t := s.spin s.cfg.rxPollDelay
    .next (some .poll, t.setWork { t.work with iw := t.work.iw + 1#16 })
  | .reread =>
    let a := s.readByte .rxlvl
    .next (some .burst, rxwaitLevel a.1 a.2)
  | .burst =>
    let a := s.readBurst .fifo (lowByte s.work.n)
    .next (some .store, a.2.setWork { a.2.work with bs := a.1 })
  | .store =>
    match s.memWrite s.work.total.toNat s.work.n.toNat s.work.bs with
    | some t => .next (rxwaitStored t)
    | none => .fault .memWriteRange

/-- Where RECV starts: it delivers a cached count, or re-arms and receives (R127). -/
def recvEntry (s : State) : RecvPos := if s.pending = 0#8 then .rearm .fifo else .cached

/-- One step of a running RECV (R127). The bytes of its count are the defined ones from its end on (R45; log 5). -/
def recvStep (p : RecvPos) (s : State) : Host.Outcome State Fault Refusal :=
  match p with
  | .cached => .next (({ s with pending := 0#8 }).complete (.count s.pending))
  | .rearm r =>
    .next (callProc (rearmStep r s) (fun r' t => t.goTo (.recv (.rearm r'))) fun t =>
      callProc (rxwaitEnter s.cfg.rxMaxWait t) (fun p' u => u.goTo (.recv (.listen p')))
        (fun u => u.goTo (.recv .finish)))
  | .listen q =>
    mapNext (fun r => callProc r (fun q' t => t.goTo (.recv (.listen q'))) (fun t => t.goTo (.recv .finish)))
      (rxwaitStep q s)
  | .finish =>
    .next (({ s with bufDefined := s.work.count.toNat }).complete (.count (lowByte s.work.count)))

/-- RECV (R127, R128): outside a session it faults before any bus primitive (R142). -/
def execRecv (s : State) : Host.Outcome State Fault Refusal :=
  match s.phase with
  | .idle =>
    if s.inSession then .next (s.goTo (.recv (recvEntry s)))
    else .next (s.raiseFault .outsideSession (.word (Instr.recv).word))
  | .busy (.recv p) => recvStep p s
  | .busy (.init _) | .busy (.beginSession _) | .busy (.endSession _) | .busy (.send _ _ _) => .next s
  | .halted => .next s

end Sys2Proof.Machine
end

