-- ==== Sys2Proof/Machine/Transmit.lean ====
section
/-! DEFINITION. TXQUEUE, TXDRAIN and the command SEND (42_transmit.md). -/

namespace Sys2Proof.Machine

/-- The head of TXQUEUE's loop: `while remaining != 0` (R120). -/
def txqueueHead (s : State) : Option TxPos × State := (if queueAgain s.work then some .poll else none, s)

/-- Enter TXQUEUE (R120): one burst for a short payload, else the chunk loop. -/
def txqueueEnter (len : Byte) (s : State) : Option TxPos × State :=
  if fitsSingleBurst s.cfg len then (some .single, s)
  else txqueueHead (s.setWork { s.work with offset := 0#16, remaining := zext16 len })

/-- TXQUEUE (R120). -/
def txqueueStep (len : Byte) (payload : List Byte) (p : TxPos) (s : State) : Option TxPos × State :=
  match p with
  | .single => (none, s.writeBurst .fifo (payloadSlice payload 0#16 (zext16 len)))
  | .poll =>
    let a := s.readByte .txlvl
    let level := zext16 a.1
    if a.1 = 0#8 then txqueueHead (a.2.setWork { a.2.work with level := level })
    else (some .burst, a.2.setWork { a.2.work with level := level, n := minWord a.2.work.remaining level.toNat })
  | .burst =>
    let t := s.writeBurst .fifo (payloadSlice payload s.work.offset s.work.n)
    txqueueHead (t.setWork { t.work with
      offset := t.work.offset + t.work.n
      remaining := t.work.remaining - t.work.n })

/-- TXDRAIN (R121): read line-status; the procedure has returned when the TX-empty bit is set in it. -/
def txdrainStep (s : State) : Option Unit × State :=
  let a := s.readByte .lsr
  let t := a.2.setWork { a.2.work with lsr := zext16 a.1 }
  (if txEmpty t.cfg t.work.lsr then none else some (), t)

/-- One step of a running SEND (R118). -/
def sendStep (len : Byte) (payload : List Byte) (p : SendPos) (s : State) : Host.Outcome State Fault Refusal :=
  match p with
  | .txOn =>
    .next (callProc (txqueueEnter len (s.writeByte .efcr s.cfg.efcrTxOnly))
      (fun q t => t.goTo (.send len payload (.queue q))) (fun t => t.goTo (.send len payload .drain)))
  | .queue q =>
    .next (callProc (txqueueStep len payload q s)
      (fun q' t => t.goTo (.send len payload (.queue q'))) (fun t => t.goTo (.send len payload .drain)))
  | .drain =>
    .next (callProc (txdrainStep s)
      (fun _ t => t.goTo (.send len payload .drain)) (fun t => t.goTo (.send len payload .rxOn)))
  | .rxOn =>
    .next (callProc (rxwaitEnter s.cfg.rxLongWait (s.writeByte .efcr s.cfg.efcrRxOnly))
      (fun q t => t.goTo (.send len payload (.listen q))) (fun t => t.goTo (.send len payload .finish)))
  | .listen q =>
    mapNext (fun r => callProc r
      (fun q' t => t.goTo (.send len payload (.listen q'))) (fun t => t.goTo (.send len payload .finish)))
      (rxwaitStep q s)
  | .finish =>
    .next (({ s with pending := lowByte s.work.count, bufDefined := s.work.count.toNat }).complete .done)

/-- SEND (R118, R122): outside a session it faults before any bus primitive (R142). A SEND with other operands than the
running one's is held like any other command (R75). -/
def execSend (len : Byte) (payload : List Byte) (s : State) : Host.Outcome State Fault Refusal :=
  match s.phase with
  | .idle =>
    if s.inSession then .next (s.goTo (.send len payload .txOn))
    else .next (s.raiseFault .outsideSession (.word (Instr.send len payload).word))
  | .busy (.send len' payload' p) =>
    if len' = len ∧ payload' = payload then sendStep len payload p s else .next s
  | .busy (.init _) | .busy (.beginSession _) | .busy (.endSession _) | .busy (.recv _) => .next s
  | .halted => .next s

end Sys2Proof.Machine
end

