-- ==== Sys2Proof/Machine/Dispatch.lean ====
section
/-! DEFINITION. One arm per command, each one direct call of its meaning. -/

namespace Sys2Proof.Machine

def exec (i : Instr) (s : State) : Host.Outcome State Fault Refusal :=
  match i with
  | .init => Sys2Proof.Machine.execInit s
  | .beginSession => Sys2Proof.Machine.execBegin s
  | .endSession => Sys2Proof.Machine.execEnd s
  | .send len payload => Sys2Proof.Machine.execSend len payload s
  | .recv => Sys2Proof.Machine.execRecv s

end Sys2Proof.Machine
end

