-- ==== Sys2Proof/Machine/Ports.lean ====
section
/-! DEFINITION. The command port and the buffer read port: what the block takes at its next step
(30_encoding.md R73 to R75, 43_receive.md R129). -/

namespace Sys2Proof.Machine

/-- The command a busy block runs (R31). -/
def Running.instr : Running → Instr
  | .init _ => .init
  | .beginSession _ => .beginSession
  | .endSession _ => .endSession
  | .send len payload _ => .send len payload
  | .recv _ => .recv

/-- The fault cause of a rejected command (R138). -/
def rejectCode : Reject → FaultCode
  | .illegalOpcode => .illegalOpcode
  | .reservedOperand => .reservedOperand
  | .lengthRange => .lengthRange
  | .payloadCount => .payloadCount

/-- What a rejected command leaves in FAULT_INFO (R138). -/
def rejectInfo (c : Command) : Reject → FaultInfo
  | .payloadCount => .wordAndCount c.word c.payload.length
  | .illegalOpcode | .reservedOperand | .lengthRange => .word c.word

/-- `BUFRD i, n` in IDLE (R129): the bytes go out, or the range is refused with BUFFER_INDEX (R143). -/
def State.bufRead (s : State) (i n : Nat) : State :=
  if i + n ≤ s.cfg.rxCapacity then
    let a := State.memRead i n s
    { a.2 with bufReads := a.2.bufReads ++ [a.1] }
  else s.raiseFault .bufferIndex (.span i n)

/-- What a step has to do: nothing, a command's next primitive, or a port action that is already done. -/
inductive Fetched where
  | wait
  | run (i : Instr) (s : State)
  | done (s : State)
  deriving DecidableEq, Repr

/-- Take one request in IDLE, `s` being the state without it: decode a command word (R32, R80), or answer a buffer read. -/
def takeRequest (q : Request) (s : State) : Fetched :=
  match q with
  | .command c =>
    match decode s.cfg.rxCapacity c with
    | .ok i => .run i s
    | .error e => .done (s.raiseFault (rejectCode e) (rejectInfo c e))
  | .bufRead i n => .done (s.bufRead i n)

/-- R32, R75: IDLE takes the oldest request, BUSY goes on with its command and holds the requests, HALTED does nothing. -/
def fetch (s : State) : Fetched :=
  match s.phase with
  | .idle =>
    match s.requests with
    | [] => .wait
    | q :: rest => takeRequest q { s with requests := rest }
  | .busy r => .run r.instr s
  | .halted => .wait

/-- A state in which the block is in IDLE with no fault, as only reset makes a halted one (R141), and `c` is the caller's
oldest request. -/
def State.present (s : State) (c : Command) : State :=
  { s with phase := .idle, fault := 0#3, faultInfo := none, requests := .command c :: s.requests }

end Sys2Proof.Machine
end

