-- ==== Sys2Proof/Machine/Step.lean ====
section
/-! DEFINITION. One step of the block (10_state.md R32). -/

namespace Sys2Proof.Machine

/-- One step: nothing to do leaves the state as it is (IDLE with no request, HALTED). -/
def step (s : State) : Host.Outcome State Fault Refusal :=
  match fetch s with
  | .wait => .next s
  | .run i t => exec i t
  | .done t => .next t

/-- `s` with the opcode-table word `w` as the command the next step takes (log 12). -/
def State.withFetchWord (s : State) (nbits w : Nat) : State := s.present (tableCommand nbits w)

end Sys2Proof.Machine
end

