-- ==== Sys2Proof/Safety.lean ====
section
/-! DEFINITION. What the claims are said with: the invariant of the block's states, runs of one command, what a run adds
to the bus trace, and the shape of a flush and of a bring-up on the bus. -/

namespace Sys2Proof.Machine

/-! The invariant (10_state.md R52, and what the pseudocode keeps between its primitives). -/

/-- The first `k` bytes of the receive buffer have been written. -/
def Filled (s : State) (k : Nat) : Prop := ∀ i, i < k → Memory.get s.buf i ≠ none

/-- RXWAIT at each of its positions (R125, R132): the count stays below the capacity, a burst fits the free space, and the
bytes counted are stored. -/
def RxOk (s : State) : RxPos → Prop
  | .poll => s.work.total.toNat < s.cfg.rxCapacity ∧ s.work.iw ≤ s.work.rb ∧ Filled s s.work.total.toNat
  | .pause => s.work.total.toNat < s.cfg.rxCapacity ∧ s.work.iw < s.work.rb ∧ Filled s s.work.total.toNat
  | .reread => s.work.total.toNat < s.cfg.rxCapacity ∧ Filled s s.work.total.toNat
  | .burst => s.work.total.toNat < s.cfg.rxCapacity ∧
      s.work.total.toNat + s.work.n.toNat ≤ s.cfg.rxCapacity ∧ Filled s s.work.total.toNat
  | .store => s.work.total.toNat < s.cfg.rxCapacity ∧
      s.work.total.toNat + s.work.n.toNat ≤ s.cfg.rxCapacity ∧
      s.work.bs.length = s.work.n.toNat ∧ Filled s s.work.total.toNat

/-- An RXWAIT result (R132). -/
def CountOk (s : State) : Prop := s.work.count.toNat ≤ s.cfg.rxCapacity ∧ Filled s s.work.count.toNat

/-- TXQUEUE at each of its positions (R120): what is queued and what remains make up the payload. -/
def TxOk (s : State) (len : Byte) : TxPos → Prop
  | .single => len.toNat ≤ s.cfg.txSingleBurstMax
  | .poll => s.work.offset.toNat + s.work.remaining.toNat = len.toNat ∧ 1 ≤ s.work.remaining.toNat
  | .burst => s.work.offset.toNat + s.work.remaining.toNat = len.toNat ∧
      1 ≤ s.work.n.toNat ∧ s.work.n.toNat ≤ s.work.remaining.toNat ∧ s.work.n.toNat ≤ s.work.level.toNat

/-- FLUSH at each of its positions (R108, R111). -/
def FlushOk (s : State) : FlushPos → Prop
  | .poll => s.work.k.toNat < s.cfg.flushMaxIter
  | .burst => s.work.k.toNat < s.cfg.flushMaxIter ∧
      1 ≤ s.work.n.toNat ∧ s.work.n.toNat ≤ s.cfg.flushChunk ∧ s.work.n.toNat ≤ s.work.level.toNat

/-- BRINGUP at each of its positions: only FLUSH keeps working registers alive (R29, R105). -/
def BringupOk (s : State) : BringupPos → Prop
  | .flush _ p => FlushOk s p
  | .disable | .fifoOff | .sleepOff | .pins | .settleFirst | .divprog _ _ | .rearm _ _ | .settleSecond => True

/-- SEND at each of its positions. -/
def SendOk (s : State) (len : Byte) : SendPos → Prop
  | .txOn | .drain | .rxOn => True
  | .queue q => TxOk s len q
  | .listen q => RxOk s q
  | .finish => CountOk s

/-- RECV at each of its positions: PENDING is not 0 exactly on the cached path (R127). -/
def RecvOk (s : State) : RecvPos → Prop
  | .cached => s.pending ≠ 0#8
  | .rearm _ => s.pending = 0#8
  | .listen q => s.pending = 0#8 ∧ RxOk s q
  | .finish => s.pending = 0#8 ∧ CountOk s

/-- What holds while a command runs, at each position of it. SEND and RECV run only in a session (R117, R142). -/
def RunningOk (s : State) : Running → Prop
  | .init (.bringup p) => BringupOk s p
  | .init .finish => True
  | .beginSession (.bringup p) => s.initialized = false ∧ BringupOk s p
  | .beginSession .sleepOff | .beginSession .pins | .beginSession .fifo | .beginSession .finish =>
      s.initialized = true
  | .endSession _ => True
  | .send len payload p =>
      s.inSession = true ∧ (Instr.send len payload).wellFormed s.cfg.rxCapacity = true ∧ SendOk s len p
  | .recv p => s.inSession = true ∧ RecvOk s p

/-- What holds in each phase: FAULT and FAULT_INFO are set exactly in HALTED (R52(d)), and never to the reserved code. -/
def PhaseOk (s : State) : Phase → Prop
  | .idle => s.fault = 0#3 ∧ s.faultInfo = none
  | .busy r => s.fault = 0#3 ∧ s.faultInfo = none ∧ RunningOk s r
  | .halted => s.fault ≠ 0#3 ∧ s.fault ≠ 7#3 ∧ s.faultInfo ≠ none

/-- The invariant of the block. -/
structure State.Inv (s : State) : Prop where
  /-- The parameters lie in their ranges (R11 to R19, R101). -/
  legal : s.cfg.Legal
  /-- R52(a). -/
  pending : s.pending.toNat ≤ s.cfg.rxCapacity
  /-- The receive buffer's storage is in canonical form. -/
  wf : Memory.wf s.buf = true
  /-- The receive buffer has RX_CAPACITY bytes (R44). -/
  within : Memory.within s.cfg.rxCapacity s.buf = true
  /-- R45. -/
  defined : s.bufDefined ≤ s.cfg.rxCapacity
  /-- A byte that is defined has been stored (R45). -/
  filled : Filled s s.bufDefined
  /-- R52(d), and the conditions of the position the block is at. -/
  phase : PhaseOk s s.phase

/-! Runs. -/

/-- `n` steps of one command in a row: taking it in IDLE, then its primitives, then its end. -/
def execN (i : Instr) : Nat → State → Host.Outcome State Fault Refusal
  | 0, s => .next s
  | n + 1, s =>
    match exec i s with
    | .next t => execN i n t
    | .fault r => .fault r
    | .refused r => .refused r

/-- `n` steps of the block. -/
def stepN : Nat → State → Host.Outcome State Fault Refusal
  | 0, s => .next s
  | n + 1, s =>
    match step s with
    | .next t => stepN n t
    | .fault r => .fault r
    | .refused r => .refused r

/-- Command `i`, taken in `s`, runs to its end in `t` and gives the completion `c`, its only one. -/
def Completes (i : Instr) (s : State) (c : Completion) (t : State) : Prop :=
  (∃ n, execN i n s = .next t) ∧ t.phase = .idle ∧ t.completions = s.completions ++ [c]

/-! Bus traces. -/

/-- The events a run has added to the bus trace (R57). -/
def newEvents (s t : State) : List BusEvent := t.trace.drop s.trace.length

/-- The bytes written to the transmit FIFO, in issue order (R59(a)). -/
def burstBytes : List BusEvent → List Byte
  | [] => []
  | .wb _ bs :: es => bs ++ burstBytes es
  | .wr _ _ :: es => burstBytes es
  | .rd _ _ :: es => burstBytes es
  | .rb _ _ _ :: es => burstBytes es

/-- The values written to one register with `writeByte`, in issue order. -/
def writesTo (a : Byte) : List BusEvent → List Byte
  | [] => []
  | .wr b v :: es => if b = a then v :: writesTo a es else writesTo a es
  | .rd _ _ :: es => writesTo a es
  | .rb _ _ _ :: es => writesTo a es
  | .wb _ _ :: es => writesTo a es

/-- The bus events FLUSH may give with `k` passes left (R108): it ends at a level of 0, or after its last pass. -/
inductive FlushTrace (chunk : Nat) : Nat → List BusEvent → Prop where
  | spent : FlushTrace chunk 0 []
  | drained (k : Nat) : FlushTrace chunk (k + 1) [.rd 0x48#8 0#8]
  | pass (k : Nat) (v : Byte) (bytes : List Byte) (es : List BusEvent) :
      v ≠ 0#8 → bytes.length = min v.toNat chunk → FlushTrace chunk k es →
      FlushTrace chunk (k + 1) (.rd 0x48#8 v :: .rb 0x00#8 (BitVec.ofNat 8 (min v.toNat chunk)) bytes :: es)

/-- The events of DIVPROG then REARM (R106, R107). -/
def programEvents (p : Params) : List BusEvent :=
  [.wr 0x18#8 p.lcrDlab, .wr 0x00#8 (p.divisor.extractLsb' 0 8), .wr 0x08#8 (p.divisor.extractLsb' 8 8),
   .wr 0x18#8 p.lcr8n1, .wr 0x10#8 p.fcrResetEnable, .wr 0x78#8 p.efcrRxOnly]

/-- The events BRINGUP may give (R105): steps 1 to 4, 6 and 7, a flush, and then the second programming and flush. -/
def BringupTrace (p : Params) (es : List BusEvent) : Prop :=
  ∃ f g, FlushTrace p.flushChunk p.flushMaxIter f ∧ FlushTrace p.flushChunk p.flushMaxIter g ∧
    es = [.wr 0x78#8 p.efcrBothDisable, .wr 0x10#8 0x00#8, .wr 0x08#8 p.ierSleepOff, .wr 0x58#8 0x00#8]
      ++ programEvents p ++ f ++ programEvents p ++ g

/-- What these events tell of the peripheral's divisor-latch-access bit (R40, R66): whether the last write to line-control
wrote LCR_DLAB. Before any such write it is `none`: the spec leaves the peripheral's state at reset unconstrained (R51; N4),
so the bit is neither clear nor set there (log 16). -/
def dlabAfter (p : Params) (es : List BusEvent) : Option Bool :=
  es.foldl (fun d e =>
    match e with
    | .wr a v => if a = 0x18#8 then some (v == p.lcrDlab) else d
    | .rd _ _ | .rb _ _ _ | .wb _ _ => d) none

/-- BRINGUP is inside DIVPROG's window, behind its LCR_DLAB write and before its LCR_8N1 write has been issued (R66). -/
def bringupInWindow : BringupPos → Bool
  | .divprog _ .dlabOn => false
  | .divprog _ .low | .divprog _ .high | .divprog _ .dlabOff => true
  | .disable | .fifoOff | .sleepOff | .pins | .settleFirst | .rearm _ _ | .settleSecond | .flush _ _ => false

/-- The block is inside DIVPROG's window (R66, R165). -/
def inDlabWindow : Phase → Bool
  | .busy (.init (.bringup p)) => bringupInWindow p
  | .busy (.beginSession (.bringup p)) => bringupInWindow p
  | .busy (.init .finish) | .busy (.beginSession .sleepOff) | .busy (.beginSession .pins)
  | .busy (.beginSession .fifo) | .busy (.beginSession .finish) | .busy (.endSession _)
  | .busy (.send _ _ _) | .busy (.recv _) | .idle | .halted => false

/-- The bus trace and the block's position agree on whether the window is open: it is open exactly where the block's own last
line-control write is known to have set the bit (log 16). -/
def DlabTracks (s : State) : Prop := dlabAfter s.cfg s.trace = some true ↔ inDlabWindow s.phase = true

/-- A bus event the rules let the block issue (R39, R53 to R56, R65), with a burst of exactly its count. -/
def Permitted : BusEvent → Prop
  | .rd a _ => a = 0x28#8 ∨ a = 0x40#8 ∨ a = 0x48#8
  | .wr a _ => a = 0x00#8 ∨ a = 0x08#8 ∨ a = 0x10#8 ∨ a = 0x18#8 ∨ a = 0x58#8 ∨ a = 0x78#8
  | .rb a n bs => a = 0x00#8 ∧ bs.length = n.toNat
  | .wb a bs => a = 0x00#8 ∧ bs.length ≤ 255

/-! Environment premises (R133, R176). -/

/-- The two commands that run RXWAIT (R125): the command, where it stands at each position of RXWAIT, and behind it. -/
inductive Listener : Instr → (RxPos → Running) → Running → Prop where
  | recv : Listener .recv (fun p => .recv (.listen p)) (.recv .finish)
  | send (len : Byte) (payload : List Byte) :
      Listener (.send len payload) (fun p => .send len payload (.listen p)) (.send len payload .finish)

/-- The two commands that run BRINGUP (R105): the command, and where it stands at each position of BRINGUP. -/
inductive Bringer : Instr → (BringupPos → Running) → Prop where
  | init : Bringer .init (fun p => .init (.bringup p))
  | beginSession : Bringer .beginSession (fun p => .beginSession (.bringup p))

/-- E-MONO (R133(a)) for the RXWAIT that command `i` runs in `s`, `inside` giving its positions, until the command completes:
a re-read of RX-level is never answered with 0. (A re-read comes right after the nonzero read that ended a wait.) -/
def EMono (i : Instr) (inside : RxPos → Running) (s : State) : Prop :=
  ∀ n t, execN i n s = .next t → t.completions = s.completions →
    t.phase = .busy (inside .reread) → (t.answer .rxlvl).1 ≠ 0#8

/-- Two states alike in everything but the working registers (R29). -/
def SameButWork (s t : State) : Prop := t = { s with work := t.work }

end Sys2Proof.Machine
end

