-- ==== Sys2Proof/Certificates/Slice0/Obligations.lean ====
section
/-! DEFINITION. The statements for the provers. Each docstring names the rules of spec/ it formalises; a clause that rests on
a choice of this model names the log entry. No statement reads the log of spins (R92; log 10): where a step may spin, what the
log holds afterwards is bound by an existential, and a step that does not spin leaves it alone with all else. -/

open Sys2Proof Sys2Proof.Machine

/-! ## The command port: encoding and decoding -/

/-- R77, R79, R80, R82. What is encoded is decoded again, for every well-formed command at every capacity; and every command
that decodes gives a well-formed command whose word is the one decoded, with SEND's payload. -/
def Obligations.DecodeAndEncodeAgree : Prop :=
  (∀ cap i, i.wellFormed cap = true → decode cap (encode i) = .ok i) ∧
  ∀ cap c i, decode cap c = .ok i →
    i.wellFormed cap = true ∧ (encode i).word = c.word ∧ (opField c.word = sendOpcode → encode i = c)

/-- R77, R79 (the C0 and C1 rows). The words of the five commands. -/
def Obligations.WordsOfTheOpcodeMap : Prop :=
  encode .init = ⟨0x0100#16, []⟩ ∧ encode .beginSession = ⟨0x0200#16, []⟩ ∧
  encode .endSession = ⟨0x0300#16, []⟩ ∧ encode .recv = ⟨0x0500#16, []⟩ ∧
  ∀ len payload, encode (.send len payload) = ⟨BitVec.ofNat 16 (0x0400 + len.toNat), payload⟩

/-- Words written out from R77 and R79, at the source's capacity 136: the four C0 words, a SEND of three bytes, the legal SEND
of none; and the rejected vectors F1, F2, F4, F5 and F8 of 95_test_vectors.md, with F6's word but no payload (its length is
checked first, R139). Not here are F3, F7 and the legal SEND of 136 bytes. -/
def Obligations.SampleWordsDecode : Prop :=
  decode 136 ⟨0x0100#16, []⟩ = .ok .init ∧ decode 136 ⟨0x0200#16, []⟩ = .ok .beginSession ∧
  decode 136 ⟨0x0300#16, []⟩ = .ok .endSession ∧ decode 136 ⟨0x0500#16, []⟩ = .ok .recv ∧
  decode 136 ⟨0x0403#16, [0x01#8, 0x02#8, 0x03#8]⟩ = .ok (.send 3#8 [0x01#8, 0x02#8, 0x03#8]) ∧
  decode 136 ⟨0x0400#16, []⟩ = .ok (.send 0#8 []) ∧
  decode 136 ⟨0x0000#16, []⟩ = .error .illegalOpcode ∧ decode 136 ⟨0x0600#16, []⟩ = .error .illegalOpcode ∧
  decode 136 ⟨0x0101#16, []⟩ = .error .reservedOperand ∧ decode 136 ⟨0x0589#16, []⟩ = .error .reservedOperand ∧
  decode 136 ⟨0x0489#16, []⟩ = .error .lengthRange ∧
  decode 136 ⟨0x0403#16, [0x01#8, 0x02#8]⟩ = .error .payloadCount

/-- R85, R86, R87, R88, R89, in the order of R139 (checks 1 to 4), with the fields of the word read as numbers: every word and
payload is one of the five commands or is rejected by its rule. A C0 command's payload is not looked at (R84; log 9). -/
def Obligations.EveryWordDecodesOrIsRejectedByItsRule : Prop :=
  ∀ (cap : Nat) (c : Command),
    let op := c.word.toNat / 256
    let len := c.word.toNat % 256
    decode cap c =
      if op < 1 ∨ 5 < op then .error .illegalOpcode
      else if op = 4 then
        if cap < len then .error .lengthRange
        else if c.payload.length ≠ len then .error .payloadCount
        else .ok (.send (BitVec.ofNat 8 len) c.payload)
      else if len ≠ 0 then .error .reservedOperand
      else if op = 1 then .ok .init
      else if op = 2 then .ok .beginSession
      else if op = 3 then .ok .endSession
      else .ok .recv

/-! ## Faults -/

/-- R138, R139, R140, R85 to R88, R142, R143. What stands at the ports in IDLE is checked in the order of R139, and the first
check that fails halts the block in one step with its code and its recorded value: FAULT, FAULT_INFO and `phase` are written
and nothing else of the block changes, no bus event included. (What is left on the ports is not said here: log 2.) The
session check of a good SEND or RECV is the last one. The reserved code 7 is never raised. -/
def Obligations.FaultsFollowTheCheckOrder : Prop :=
  (∀ s t : State, step s = .next t → t.fault = 7#3 → s.fault = 7#3) ∧
  ∀ (s : State) (rest : List Request), s.phase = .idle →
    let raises (code : BitVec 3) (info : FaultInfo) : Prop :=
      ∃ left, step s = .next { s with
        requests := left, phase := .halted, fault := code, faultInfo := some info }
    (∀ c : Command, s.requests = .command c :: rest →
      let op := c.word.toNat / 256
      let len := c.word.toNat % 256
      (op < 1 ∨ 5 < op → raises 1#3 (.word c.word)) ∧
      (1 ≤ op ∧ op ≤ 5 ∧ op ≠ 4 ∧ len ≠ 0 → raises 2#3 (.word c.word)) ∧
      (op = 4 ∧ s.cfg.rxCapacity < len → raises 3#3 (.word c.word)) ∧
      (op = 4 ∧ len ≤ s.cfg.rxCapacity ∧ c.payload.length ≠ len →
        raises 4#3 (.wordAndCount c.word c.payload.length)) ∧
      (op = 4 ∧ len ≤ s.cfg.rxCapacity ∧ c.payload.length = len ∧ s.inSession = false → raises 5#3 (.word c.word)) ∧
      (op = 5 ∧ len = 0 ∧ s.inSession = false → raises 5#3 (.word c.word))) ∧
    ∀ i n : Nat, s.requests = .bufRead i n :: rest → s.cfg.rxCapacity < i + n → raises 6#3 (.span i n)

/-- R142, R140. SEND and RECV outside a session fault with code 5 and their command word, before any bus primitive. -/
def Obligations.OutsideSessionSendAndRecvFault : Prop :=
  ∀ s : State, s.phase = .idle → s.inSession = false →
    exec .recv s = .next { s with phase := .halted, fault := 5#3, faultInfo := some (.word 0x0500#16) } ∧
    ∀ len payload, exec (.send len payload) s = .next { s with
      phase := .halted, fault := 5#3, faultInfo := some (.word (BitVec.ofNat 16 (0x0400 + len.toNat))) }

/-- R141. Nothing leaves HALTED: no step, whatever is presented, and no command. -/
def Obligations.NothingLeavesHalted : Prop :=
  ∀ (s : State) (n : Nat), s.phase = .halted → stepN n s = .next s ∧ ∀ i, execN i n s = .next s

/-! ## The ports -/

/-- R32. A decoded command is run by the next step, with the request taken off the port (log 2); a busy block goes on with
its own command. -/
def Obligations.StepRunsTheDecodedCommand : Prop :=
  (∀ (s : State) (c : Command) (rest : List Request) (i : Instr),
    s.phase = .idle → s.requests = .command c :: rest → decode s.cfg.rxCapacity c = .ok i →
    step s = exec i { s with requests := rest }) ∧
  (∀ s p, s.phase = .busy (.init p) → step s = exec .init s) ∧
  (∀ s p, s.phase = .busy (.beginSession p) → step s = exec .beginSession s) ∧
  (∀ s p, s.phase = .busy (.endSession p) → step s = exec .endSession s) ∧
  (∀ s len payload p, s.phase = .busy (.send len payload p) → step s = exec (.send len payload) s) ∧
  (∀ s p, s.phase = .busy (.recv p) → step s = exec .recv s)

/-- R75, R129. Outside IDLE neither port takes or answers anything: what the caller has presented waits, and no buffer read
is answered. -/
def Obligations.PortsActOnlyInIdle : Prop :=
  ∀ s t : State, s.phase ≠ .idle → step s = .next t → t.requests = s.requests ∧ t.bufReads = s.bufReads

/-- R129, R143. `BUFRD i, n` in IDLE, in a session or not: in range it answers `n` bytes, those at defined indices being the
stored ones, and changes nothing of the block (but the counter of free values, log 3); out of range it raises code 6 with
`i` and `n`. While BUSY it is held, and in HALTED nothing is answered. (Three clauses are the model's choice: that the
request is then off the port, answered or faulted, is log 2, which bytes are defined is log 5, the counter is log 3.) -/
def Obligations.BufferReadPort : Prop :=
  ∀ (s : State) (i n : Nat) (rest : List Request), s.requests = .bufRead i n :: rest →
    (s.phase = .idle → i + n ≤ s.cfg.rxCapacity →
      ∃ bytes d, step s = .next { s with requests := rest, bufReads := s.bufReads ++ [bytes], draws := d } ∧
        bytes.length = n ∧
        ∀ j v, j < n → i + j < s.bufDefined → Memory.get s.buf (i + j) = some v → bytes[j]? = some v) ∧
    (s.phase = .idle → s.cfg.rxCapacity < i + n →
      step s = .next { s with
        requests := rest, phase := .halted, fault := 6#3, faultInfo := some (.span i n) }) ∧
    (∀ r t, s.phase = .busy r → step s = .next t → t.requests = s.requests ∧ t.bufReads = s.bufReads) ∧
    (s.phase = .halted → step s = .next s)

/-- R32, R159. In IDLE with nothing presented the block waits. -/
def Obligations.IdleBlockWaitsForACommand : Prop :=
  ∀ (s : State) (n : Nat), s.phase = .idle → s.requests = [] → stepN n s = .next s

/-! ## The invariant and the whole-machine rules -/

/-- R52, R117, R132 and what the pseudocode keeps between its primitives: every step keeps `State.Inv`, from every state
that meets it. -/
def Obligations.EveryStepKeepsTheInvariant : Prop :=
  ∀ s t : State, s.Inv → step s = .next t → t.Inv

/-- R50, R104(b). The state after reset meets the invariant, whatever the OPEN codes are. -/
def Obligations.ResetMeetsTheInvariant : Prop := State.reset.Inv

/-- R57, R58, R144. In a state that meets the invariant a step never stops the model: the block's faults are next states, a
hang is an endless run, and every MemWrite is in range. -/
def Obligations.EveryStepAnswersANextState : Prop :=
  ∀ s : State, s.Inv → ∃ t, step s = .next t

/-- R52(a) to (d). -/
def Obligations.StatusRegistersObeyTheirInvariants : Prop :=
  ∀ s t : State, s.Inv → step s = .next t →
    t.pending.toNat ≤ t.cfg.rxCapacity ∧
    (s.initialized = true → t.initialized = true) ∧
    (s.fault ≠ 0#3 → t.fault = s.fault) ∧
    (t.phase = .halted ↔ t.fault ≠ 0#3)

/-- R50, R157. What reset leaves: every value the spec gives, and no bus event. -/
def Obligations.ResetLeavesTheGivenValues : Prop :=
  State.reset.phase = .idle ∧ State.reset.initialized = false ∧ State.reset.pending = 0#8 ∧
  State.reset.inSession = false ∧ State.reset.fault = 0#3 ∧ State.reset.faultInfo = none ∧
  State.reset.trace = []

/-- R11 to R19. The numeric parameters of the block that leaves reset have the source's values. -/
def Obligations.ResetHasTheSourcesParameters : Prop :=
  State.reset.cfg.rxCapacity = 136 ∧ State.reset.cfg.rxMaxWait = 40 ∧ State.reset.cfg.rxLongWait = 1000 ∧
  State.reset.cfg.txSingleBurstMax = 64 ∧ State.reset.cfg.flushMaxIter = 32 ∧ State.reset.cfg.flushChunk = 64 ∧
  State.reset.cfg.settleSpin = 20000 ∧ State.reset.cfg.rxPollDelay = 300 ∧ State.reset.cfg.divisor.toNat = 10

/-- R104(a), R20, R10, R63, R68. No step changes a parameter or an OPEN code, and a step issues at most one bus event, behind
those already issued. -/
def Obligations.OneStepIssuesAtMostOneBusEvent : Prop :=
  ∀ s t : State, step s = .next t →
    t.cfg = s.cfg ∧ (t.trace = s.trace ∨ ∃ e, t.trace = s.trace ++ [e])

/-- R39, R53 to R56, R65. Every event a step adds is an access the rules let the block make, at one of the nine offsets, and
a receive burst returns exactly its count. -/
def Obligations.BusAccessesStayWithinTheRegisterMap : Prop :=
  ∀ (s t : State) (e : BusEvent), s.Inv → step s = .next t → t.trace = s.trace ++ [e] → Permitted e

/-- R66, R165, R135, where LCR_DLAB and LCR_8N1 differ. The trace and the position agree on when divisor-latch access is
open, at every step; inside that window only the two divisor bytes and the closing write are issued, and outside it 0x08
is written with a sleep code only and 0x00 is never written as a register. (Before the first line-control write
R51 leaves the peripheral's DLAB unconstrained: no write of the block has opened the window there, and no more
is said, log 16.) -/
def Obligations.DivisorWindowHoldsNoOtherAccess : Prop :=
  ∀ s t : State, s.cfg.lcrDlab ≠ s.cfg.lcr8n1 → DlabTracks s → step s = .next t →
    DlabTracks t ∧
    ∀ e, t.trace = s.trace ++ [e] →
      (dlabAfter s.cfg s.trace = some true →
        e = .wr 0x00#8 (s.cfg.divisor.extractLsb' 0 8) ∨ e = .wr 0x08#8 (s.cfg.divisor.extractLsb' 8 8) ∨
        e = .wr 0x18#8 s.cfg.lcr8n1) ∧
      (dlabAfter s.cfg s.trace ≠ some true →
        (∀ v, e ≠ .wr 0x00#8 v) ∧ ∀ v, e = .wr 0x08#8 v → v = s.cfg.ierSleepOff ∨ v = s.cfg.ierSleepOn)

/-- R35, R127, R118, R113. PENDING is written by SEND with its count, by BEGIN with 0 and by RECV's cached path with 0, and by
nothing else. -/
def Obligations.PendingHasThreeWriters : Prop :=
  ∀ s t : State, step s = .next t → t.pending ≠ s.pending →
    (∃ len payload, s.phase = .busy (.send len payload .finish) ∧ t.pending = s.work.count.setWidth 8) ∨
    (s.phase = .busy (.beginSession .finish) ∧ t.pending = 0#8) ∨
    (s.phase = .busy (.recv .cached) ∧ t.pending = 0#8)

/-- R44, R108, R156. The receive buffer is written by RXWAIT's MemWrite and by nothing else: any other step leaves every byte
of it as it was. -/
def Obligations.OnlyRxwaitWritesTheBuffer : Prop :=
  ∀ s t : State, step s = .next t →
    (∀ a, Memory.get t.buf a = Memory.get s.buf a) ∨ s.phase = .busy (.recv (.listen .store)) ∨
    ∃ len payload, s.phase = .busy (.send len payload (.listen .store))

/-- R29. What the working registers hold in IDLE is never seen: two blocks that differ in nothing else give the same bus
trace, completions and buffer reads, and are in the same phase, after any number of steps. -/
def Obligations.WorkingRegistersAreNeverReadBeforeWritten : Prop :=
  ∀ (n : Nat) (s t s' t' : State), s.phase = .idle → SameButWork s t →
    stepN n s = .next s' → stepN n t = .next t' →
    s'.phase = t'.phase ∧ s'.trace = t'.trace ∧ s'.completions = t'.completions ∧ s'.bufReads = t'.bufReads ∧
    s'.initialized = t'.initialized ∧ s'.pending = t'.pending ∧ s'.inSession = t'.inSession ∧
    s'.fault = t'.fault ∧ s'.buf = t'.buf

/-! ## Where each command starts and ends -/

/-- R32, R113, R127. In IDLE every command is taken: `phase <- BUSY(cmd, pos)` with `pos` before its first primitive, and
nothing else changes. BEGIN skips bring-up when INITIALIZED is 1; RECV goes to the cached path when PENDING is not 0.
(That acceptance is a step of its own: log 1.) -/
def Obligations.IdleBlockTakesEveryCommand : Prop :=
  ∀ s : State, s.phase = .idle →
    exec .init s = .next { s with phase := .busy (.init (.bringup .disable)) } ∧
    exec .beginSession s = .next { s with
      phase := .busy (.beginSession (if s.initialized = true then .sleepOff else .bringup .disable)) } ∧
    exec .endSession s = .next { s with phase := .busy (.endSession .fifo) } ∧
    (s.inSession = true →
      (∀ len payload, exec (.send len payload) s = .next { s with phase := .busy (.send len payload .txOn) }) ∧
      exec .recv s = .next { s with
        phase := .busy (.recv (if s.pending = 0#8 then .rearm .fifo else .cached)) })

/-- R109, R113, R115, R118, R127, R76. The last step of every command: what it writes, its completion, and `phase <- IDLE`.
(That finishing is a step of its own: log 1; which bytes are then defined: log 5.) -/
def Obligations.EveryCommandEndsWithItsOwnEffect : Prop :=
  (∀ s, s.phase = .busy (.init .finish) → exec .init s = .next { s with
    initialized := true, phase := .idle, completions := s.completions ++ [.done] }) ∧
  (∀ s, s.phase = .busy (.beginSession .finish) → exec .beginSession s = .next { s with
    pending := 0#8, inSession := true, bufDefined := 0, phase := .idle
    completions := s.completions ++ [.done] }) ∧
  (∀ s, s.phase = .busy (.endSession .finish) → exec .endSession s = .next { s with
    inSession := false, phase := .idle, completions := s.completions ++ [.done] }) ∧
  (∀ s len payload, s.phase = .busy (.send len payload .finish) → exec (.send len payload) s = .next { s with
    pending := s.work.count.setWidth 8, bufDefined := s.work.count.toNat, phase := .idle
    completions := s.completions ++ [.done] }) ∧
  (∀ s, s.phase = .busy (.recv .cached) → exec .recv s = .next { s with
    pending := 0#8, phase := .idle, completions := s.completions ++ [.count s.pending] }) ∧
  (∀ s, s.phase = .busy (.recv .finish) → exec .recv s = .next { s with
    bufDefined := s.work.count.toNat, phase := .idle
    completions := s.completions ++ [.count (s.work.count.setWidth 8)] })

/-! ## Bring-up and session -/

/-- R106, R107, R109, and the bus side of R105 and R108. INIT from IDLE runs to its end whatever the
environment answers: on the bus it gives a BRINGUP (16 writes in their order, two flushes), and of the block's own state only INITIALIZED
changes. (Where the settle delays stand is SettleDelaysStandWhereBringupHasThem; their log is not read.) -/
def Obligations.InitRunsBringupToItsEnd : Prop :=
  ∀ s : State, s.phase = .idle → s.cfg.Legal →
    ∃ t es w e d log, Completes .init s .done t ∧ BringupTrace s.cfg es ∧
      t = { s with
        initialized := true
        completions := s.completions ++ [.done]
        trace := s.trace ++ es
        spins := log
        work := w, env := e, draws := d }

/-- R111, R145. INIT ends within a number of steps the parameters bound. (The count of steps rests on log 1 and log 10.) -/
def Obligations.BringupAlwaysTerminates : Prop :=
  ∀ s : State, s.phase = .idle → s.cfg.Legal →
    ∃ n t, n ≤ 20 + 4 * s.cfg.flushMaxIter ∧ execN .init n s = .next t ∧
      t.phase = .idle ∧ t.completions = s.completions ++ [.done]

/-- R113, R114. BEGIN from IDLE runs to its end: with INITIALIZED = 0 it runs BRINGUP first; in both cases its three writes
follow, PENDING becomes 0, the session is open, and every byte of the buffer is stale though none is written. -/
def Obligations.BeginOpensASession : Prop :=
  ∀ s : State, s.phase = .idle → s.cfg.Legal →
    let three : List BusEvent :=
      [.wr 0x08#8 s.cfg.ierSleepOff, .wr 0x58#8 0x00#8, .wr 0x10#8 s.cfg.fcrResetEnable]
    (s.initialized = true →
      Completes .beginSession s .done { s with
        pending := 0#8, inSession := true, bufDefined := 0
        completions := s.completions ++ [.done], trace := s.trace ++ three }) ∧
    (s.initialized = false →
      ∃ es w e d log, BringupTrace s.cfg es ∧
        Completes .beginSession s .done { s with
          initialized := true
          pending := 0#8, inSession := true, bufDefined := 0
          completions := s.completions ++ [.done], trace := s.trace ++ es ++ three
          spins := log
          work := w, env := e, draws := d })

/-- R115, R116. END from IDLE runs to its end, in a session or not, before any bring-up or after: three writes, IN_SESSION
becomes 0, nothing else changes. -/
def Obligations.EndClosesTheSession : Prop :=
  ∀ s : State, s.phase = .idle →
    Completes .endSession s .done { s with
      inSession := false
      completions := s.completions ++ [.done]
      trace := s.trace ++ [.wr 0x10#8 0x06#8, .wr 0x08#8 s.cfg.ierSleepOn, .wr 0x58#8 0x01#8] }

/-! ## Transmit -/

/-- R118, R120. SEND at its queueing positions: the transmitter is enabled and the path is chosen by the length; a short
payload goes out as one burst; on the chunked path a level of 0 issues no burst and reads again, a level v gives a burst of
min(remaining, v) bytes from the payload at `offset`, and the loop ends when nothing remains. -/
def Obligations.TransmitQueueFollowsItsPseudocode : Prop :=
  ∀ (s : State) (len : Byte) (payload : List Byte),
    (s.phase = .busy (.send len payload .txOn) → len.toNat ≤ s.cfg.txSingleBurstMax →
      exec (.send len payload) s = .next { s with
        phase := .busy (.send len payload (.queue .single))
        trace := s.trace ++ [.wr 0x78#8 s.cfg.efcrTxOnly] }) ∧
    (s.phase = .busy (.send len payload .txOn) → s.cfg.txSingleBurstMax < len.toNat →
      exec (.send len payload) s = .next { s with
        phase := .busy (.send len payload (.queue .poll))
        trace := s.trace ++ [.wr 0x78#8 s.cfg.efcrTxOnly]
        work := { s.work with offset := 0#16, remaining := len.setWidth 16 } }) ∧
    (s.phase = .busy (.send len payload (.queue .single)) →
      exec (.send len payload) s = .next { s with
        phase := .busy (.send len payload .drain)
        trace := s.trace ++ [.wb 0x00#8 (payload.take len.toNat)] }) ∧
    (s.phase = .busy (.send len payload (.queue .poll)) → s.work.remaining ≠ 0#16 →
      ∃ v e d, (v, e, d) = ((s.answer .txlvl).1, (s.answer .txlvl).2.env, (s.answer .txlvl).2.draws) ∧
        exec (.send len payload) s = .next { s with
          phase := .busy (.send len payload (.queue (if v = 0#8 then .poll else .burst)))
          trace := s.trace ++ [.rd 0x40#8 v]
          env := e, draws := d
          work := { s.work with
            level := v.setWidth 16
            n := if v = 0#8 then s.work.n else BitVec.ofNat 16 (min s.work.remaining.toNat v.toNat) } }) ∧
    (s.phase = .busy (.send len payload (.queue .burst)) →
      exec (.send len payload) s = .next { s with
        phase := .busy (.send len payload (if s.work.remaining = s.work.n then .drain else .queue .poll))
        trace := s.trace ++ [.wb 0x00#8 ((payload.drop s.work.offset.toNat).take s.work.n.toNat)]
        work := { s.work with
          offset := s.work.offset + s.work.n, remaining := s.work.remaining - s.work.n } })

/-- R120(e). On the chunked path a burst is never larger than the TX level read just before it, and never empty: from the
level read, through the burst it leads to. -/
def Obligations.NoChunkBurstExceedsTheReportedLevel : Prop :=
  ∀ (s t u : State) (len : Byte) (payload : List Byte), s.Inv →
    s.phase = .busy (.send len payload (.queue .poll)) →
    exec (.send len payload) s = .next t → t.phase = .busy (.send len payload (.queue .burst)) →
    exec (.send len payload) t = .next u →
    ∃ v bytes, u.trace = s.trace ++ [.rd 0x40#8 v, .wb 0x00#8 bytes] ∧ 1 ≤ bytes.length ∧ bytes.length ≤ v.toNat

/-- R120(f). However the transmit FIFO answers, when a SEND comes to wait for transmitter-empty for the first time, the
bursts it has issued, joined in issue order, are its payload: every byte once, in order. -/
def Obligations.EveryPayloadByteIsQueuedOnceInOrder : Prop :=
  ∀ (n : Nat) (s t : State) (len : Byte) (payload : List Byte), s.Inv →
    s.phase = .busy (.send len payload .txOn) → execN (.send len payload) n s = .next t →
    t.completions = s.completions → t.phase = .busy (.send len payload .drain) →
    burstBytes (newEvents s t) = payload

/-- R121, R41. TXDRAIN: one line-status read a step, and SEND goes on exactly when the TX-empty bit is set in it. -/
def Obligations.DrainEndsWhenTheTransmitterIsEmpty : Prop :=
  ∀ (s : State) (len : Byte) (payload : List Byte), s.phase = .busy (.send len payload .drain) →
    ∃ v e d, (v, e, d) = ((s.answer .lsr).1, (s.answer .lsr).2.env, (s.answer .lsr).2.draws) ∧
      exec (.send len payload) s = .next { s with
        phase := .busy (.send len payload (if v &&& s.cfg.lsrTxEmptyMask = 0#8 then .drain else .rxOn))
        trace := s.trace ++ [.rd 0x28#8 v]
        env := e, draws := d
        work := { s.work with lsr := v.setWidth 16 } }

/-- R124(a), R144. While every line-status read lacks the TX-empty bit, SEND stays where it is, for any number of steps: no
fault, no completion, one read a step. -/
def Obligations.StuckTransmitterHoldsSendForEver : Prop :=
  ∀ (s : State) (len : Byte) (payload stuck : List Byte) (more : List Byte),
    s.phase = .busy (.send len payload .drain) → s.env.lineStatus = stuck ++ more →
    (∀ v ∈ stuck, v &&& s.cfg.lsrTxEmptyMask = 0#8) →
    ∃ w, execN (.send len payload) stuck.length s = .next { s with
      work := w
      env := { s.env with lineStatus := more }
      trace := s.trace ++ stuck.map fun v => .rd 0x28#8 v }

/-- R124(b), R144, R120(c). While every TX-level read is 0, SEND's chunked path stays where it is and issues no burst, for any
number of steps. -/
def Obligations.FullTransmitFifoHoldsSendForEver : Prop :=
  ∀ (s : State) (len : Byte) (payload : List Byte) (more : List Byte) (n : Nat),
    s.phase = .busy (.send len payload (.queue .poll)) → s.work.remaining ≠ 0#16 →
    s.env.txLevels = List.replicate n 0#8 ++ more →
    ∃ w, execN (.send len payload) n s = .next { s with
      work := w
      env := { s.env with txLevels := more }
      trace := s.trace ++ List.replicate n (.rd 0x40#8 0#8) }

/-- R120, R176 (F-TXLVL for a FIFO that always has room). With enough nonzero TX levels to come, the chunked path queues all
that remains and SEND comes to wait for transmitter-empty. -/
def Obligations.ChunkedTransmitEndsWhenTheFifoHasRoom : Prop :=
  ∀ (s : State) (len : Byte) (payload levels more : List Byte), s.Inv →
    s.phase = .busy (.send len payload (.queue .poll)) →
    s.env.txLevels = levels ++ more → (∀ v ∈ levels, v ≠ 0#8) → s.work.remaining.toNat ≤ levels.length →
    ∃ n t, execN (.send len payload) n s = .next t ∧ t.phase = .busy (.send len payload .drain) ∧
      t.completions = s.completions ∧ t.work.remaining = 0#16 ∧ t.work.offset.toNat = len.toNat

/-- R118, R119, R121, R122(a), R122(d), R123. A SEND of a single burst to a far end that stays silent runs to its end: its whole
bus trace, and PENDING = 0. -/
def Obligations.SendWithoutReplyCompletes : Prop :=
  ∀ (s : State) (len : Byte) (payload busy more silent : List Byte) (v : Byte),
    s.phase = .idle → s.inSession = true → s.cfg.Legal →
    (Instr.send len payload).wellFormed s.cfg.rxCapacity = true → len.toNat ≤ s.cfg.txSingleBurstMax →
    s.env.lineStatus = busy ++ v :: more → (∀ x ∈ busy, x &&& s.cfg.lsrTxEmptyMask = 0#8) →
    v &&& s.cfg.lsrTxEmptyMask ≠ 0#8 →
    s.env.rxLevels = List.replicate (s.cfg.rxLongWait + 1) 0#8 ++ silent →
    ∃ w log, Completes (.send len payload) s .done { s with
      pending := 0#8, bufDefined := 0
      completions := s.completions ++ [.done]
      work := w
      env := { s.env with lineStatus := more, rxLevels := silent }
      spins := log
      trace := s.trace ++ [.wr 0x78#8 s.cfg.efcrTxOnly, .wb 0x00#8 payload]
        ++ busy.map (fun x => .rd 0x28#8 x) ++ [.rd 0x28#8 v, .wr 0x78#8 s.cfg.efcrRxOnly]
        ++ List.replicate (s.cfg.rxLongWait + 1) (.rd 0x48#8 0#8) }

/-- R122(c), R123. However the environment answers, a SEND has written extra-features exactly twice when it comes to its end,
transmitter-only first and receiver-only last. -/
def Obligations.SendWritesExtraFeaturesTwice : Prop :=
  ∀ (n : Nat) (s t : State) (len : Byte) (payload : List Byte),
    s.phase = .busy (.send len payload .txOn) → execN (.send len payload) n s = .next t →
    t.completions = s.completions → t.phase = .busy (.send len payload .finish) →
    writesTo 0x78#8 (newEvents s t) = [s.cfg.efcrTxOnly, s.cfg.efcrRxOnly]

/-- R118, R120, R122(d), R176. A SEND of any length, single burst or chunked, to a far end that stays silent runs to its end
when the transmitter takes the payload and drains: PENDING is 0, the session goes on, and the bursts it issued are its
payload. -/
def Obligations.SendOfAnyLengthCompletes : Prop :=
  ∀ (s : State) (len : Byte) (payload busy more levels moreLevels silent : List Byte) (v : Byte),
    s.phase = .idle → s.inSession = true → s.cfg.Legal →
    (Instr.send len payload).wellFormed s.cfg.rxCapacity = true →
    s.env.txLevels = levels ++ moreLevels → (∀ x ∈ levels, x ≠ 0#8) → len.toNat ≤ levels.length →
    s.env.lineStatus = busy ++ v :: more → (∀ x ∈ busy, x &&& s.cfg.lsrTxEmptyMask = 0#8) →
    v &&& s.cfg.lsrTxEmptyMask ≠ 0#8 →
    s.env.rxLevels = List.replicate (s.cfg.rxLongWait + 1) 0#8 ++ silent →
    ∃ t, Completes (.send len payload) s .done t ∧ t.pending = 0#8 ∧ t.inSession = true ∧
      burstBytes (newEvents s t) = payload

/-- R118, R119, R125, R131. SEND's reception: a reply that comes as one burst below the capacity, then silence of the short
budget, is stored at the start of the buffer, and its length goes to PENDING, replacing what was there. -/
def Obligations.SendCachesTheReply : Prop :=
  ∀ (s : State) (len a b : Byte) (payload bytes moreLevels moreBytes : List Byte),
    s.Inv → s.phase = .busy (.send len payload .rxOn) →
    a ≠ 0#8 → b ≠ 0#8 → b.toNat < s.cfg.rxCapacity → 0 < s.cfg.rxLongWait →
    s.env.rxLevels = a :: b :: List.replicate (s.cfg.rxMaxWait + 1) 0#8 ++ moreLevels →
    s.env.fifo = bytes ++ moreBytes → bytes.length = b.toNat →
    ∃ w m log, Completes (.send len payload) s .done { s with
        phase := .idle, pending := b, buf := m, bufDefined := b.toNat
        completions := s.completions ++ [.done]
        work := w
        env := { s.env with rxLevels := moreLevels, fifo := moreBytes }
        spins := log
        trace := s.trace ++ [.wr 0x78#8 s.cfg.efcrRxOnly, .rd 0x48#8 a, .rd 0x48#8 b, .rb 0x00#8 b bytes]
          ++ List.replicate (s.cfg.rxMaxWait + 1) (.rd 0x48#8 0#8) } ∧
      ∀ j, Memory.get m j = if j < b.toNat then bytes[j]? else Memory.get s.buf j

/-! ## Receive -/

/-- R125, R131. RXWAIT, as RECV and as SEND run it. Each enters it with its own budget, `total` and `iw` at 0; then, at each
position: the wait's read and its three outcomes, the pause, the re-read with the clamp, the burst, and the store that
either ends the reception or begins the next wait. (That the pause is a step of its own, also where RX_POLL_DELAY is 0 and R18
takes none, is the model's choice, log 10: R174 leaves it open.) -/
def Obligations.ReceiveLoopFollowsItsPseudocode : Prop :=
  (∀ s : State, s.phase = .busy (.recv (.rearm .receiver)) →
    exec .recv s = .next { s with
      phase := .busy (.recv (.listen .poll))
      trace := s.trace ++ [.wr 0x78#8 s.cfg.efcrRxOnly]
      work := { s.work with total := 0#16, rb := BitVec.ofNat 16 s.cfg.rxMaxWait, iw := 0#16 } }) ∧
  (∀ (s : State) (len : Byte) (payload : List Byte), s.phase = .busy (.send len payload .rxOn) →
    exec (.send len payload) s = .next { s with
      phase := .busy (.send len payload (.listen .poll))
      trace := s.trace ++ [.wr 0x78#8 s.cfg.efcrRxOnly]
      work := { s.work with total := 0#16, rb := BitVec.ofNat 16 s.cfg.rxLongWait, iw := 0#16 } }) ∧
  ∀ (s : State) (i : Instr) (inside : RxPos → Running) (behind : Running), Listener i inside behind →
    (s.phase = .busy (inside .poll) →
      ∃ v e d, (v, e, d) = ((s.answer .rxlvl).1, (s.answer .rxlvl).2.env, (s.answer .rxlvl).2.draws) ∧
        exec i s = .next { s with
          trace := s.trace ++ [.rd 0x48#8 v], env := e, draws := d
          phase := .busy (
            if v = 0#8 ∧ s.work.iw < s.work.rb then inside .pause
            else if s.work.iw = s.work.rb then behind
            else inside .reread)
          work :=
            if v = 0#8 ∧ s.work.iw < s.work.rb then s.work
            else if s.work.iw = s.work.rb then { s.work with count := s.work.total }
            else { s.work with rb := BitVec.ofNat 16 s.cfg.rxMaxWait } }) ∧
    (s.phase = .busy (inside .pause) →
      ∃ log, exec i s = .next { s with
        phase := .busy (inside .poll)
        spins := log
        work := { s.work with iw := s.work.iw + 1#16 } }) ∧
    (s.phase = .busy (inside .reread) →
      ∃ v e d, (v, e, d) = ((s.answer .rxlvl).1, (s.answer .rxlvl).2.env, (s.answer .rxlvl).2.draws) ∧
        exec i s = .next { s with
          trace := s.trace ++ [.rd 0x48#8 v], env := e, draws := d
          phase := .busy (inside .burst)
          work := { s.work with
            level := v.setWidth 16
            n := BitVec.ofNat 16 (min v.toNat (s.cfg.rxCapacity - s.work.total.toNat)) } }) ∧
    (s.phase = .busy (inside .burst) → s.work.n.toNat ≤ 255 →
      ∃ bytes e d, bytes.length = s.work.n.toNat ∧ exec i s = .next { s with
        trace := s.trace ++ [.rb 0x00#8 (s.work.n.setWidth 8) bytes], env := e, draws := d
        phase := .busy (inside .store)
        work := { s.work with bs := bytes } }) ∧
    (s.phase = .busy (inside .store) → s.Inv →
      ∃ b, exec i s = .next { s with
          buf := b
          phase := .busy (
            if s.cfg.rxCapacity ≤ s.work.total.toNat + s.work.n.toNat then behind else inside .poll)
          work :=
            if s.cfg.rxCapacity ≤ s.work.total.toNat + s.work.n.toNat then
              { s.work with total := s.work.total + s.work.n, count := s.work.total + s.work.n }
            else { s.work with total := s.work.total + s.work.n, iw := 0#16 } } ∧
        ∀ a, Memory.get b a =
          if s.work.total.toNat ≤ a ∧ a < s.work.total.toNat + s.work.n.toNat then
            s.work.bs[a - s.work.total.toNat]?
          else Memory.get s.buf a)

/-- R126(b), R126(c). The read made with `iw = rb` ends the reception whatever it returns, a budget of 0 included: no burst,
and the result is the count so far. -/
def Obligations.LastPollOfAWaitEndsTheReception : Prop :=
  ∀ (s : State) (i : Instr) (inside : RxPos → Running) (behind : Running), Listener i inside behind →
    s.phase = .busy (inside .poll) → s.work.iw = s.work.rb →
    ∃ v e d, exec i s = .next { s with
      phase := .busy behind
      trace := s.trace ++ [.rd 0x48#8 v], env := e, draws := d
      work := { s.work with count := s.work.total } }

/-- R126(a). A wait that sees no data issues `rb + 1` reads, counts `rb` iterations and ends the reception with the count so
far. (The count of steps is the model's choice: it rests on log 1 and on log 10, by which each of the `rb` pauses is a step,
also where RX_POLL_DELAY is 0 and R18 takes none.) -/
def Obligations.SilentWaitReadsOnceMoreThanItsBudget : Prop :=
  ∀ (s : State) (i : Instr) (inside : RxPos → Running) (behind : Running) (more : List Byte),
    Listener i inside behind → s.phase = .busy (inside .poll) → s.work.iw = 0#16 →
    s.env.rxLevels = List.replicate (s.work.rb.toNat + 1) 0#8 ++ more →
    ∃ log, execN i (2 * s.work.rb.toNat + 1) s = .next { s with
      phase := .busy behind
      env := { s.env with rxLevels := more }
      trace := s.trace ++ List.replicate (s.work.rb.toNat + 1) (.rd 0x48#8 0#8)
      spins := log
      work := { s.work with iw := s.work.rb, count := s.work.total } }

/-- R127, R128(a), R130. With a count cached, RECV in a session returns it with no bus event, and PENDING becomes 0; nothing
else changes. -/
def Obligations.CachedCountIsDeliveredOnce : Prop :=
  ∀ s : State, s.phase = .idle → s.inSession = true → s.pending ≠ 0#8 →
    Completes .recv s (.count s.pending) { s with
      pending := 0#8, completions := s.completions ++ [.count s.pending] }

/-- R127, R128(b), R128(c), R107, R126(a). With nothing cached and nothing arriving, RECV re-arms, polls `RX_MAX_WAIT + 1` times
and returns 0; the buffer is not written, and none of its bytes is defined any more. -/
def Obligations.FreshReceiveOfSilenceReturnsZero : Prop :=
  ∀ (s : State) (more : List Byte), s.phase = .idle → s.inSession = true → s.pending = 0#8 → s.cfg.Legal →
    s.env.rxLevels = List.replicate (s.cfg.rxMaxWait + 1) 0#8 ++ more →
    ∃ w log, Completes .recv s (.count 0#8) { s with
      bufDefined := 0
      completions := s.completions ++ [.count 0#8]
      work := w
      env := { s.env with rxLevels := more }
      spins := log
      trace := s.trace ++ [.wr 0x10#8 s.cfg.fcrResetEnable, .wr 0x78#8 s.cfg.efcrRxOnly]
        ++ List.replicate (s.cfg.rxMaxWait + 1) (.rd 0x48#8 0#8) }

/-- R125, R127, R128(e), R126(f). A message that arrives as one burst below the capacity, then silence: RECV returns its length,
its bytes stand at the start of the buffer and are the defined ones, and PENDING stays 0. -/
def Obligations.FreshReceiveDeliversAMessage : Prop :=
  ∀ (s : State) (a b : Byte) (bytes moreLevels moreBytes : List Byte),
    s.Inv → s.phase = .idle → s.inSession = true → s.pending = 0#8 →
    a ≠ 0#8 → b ≠ 0#8 → b.toNat < s.cfg.rxCapacity → 0 < s.cfg.rxMaxWait →
    s.env.rxLevels = a :: b :: List.replicate (s.cfg.rxMaxWait + 1) 0#8 ++ moreLevels →
    s.env.fifo = bytes ++ moreBytes → bytes.length = b.toNat →
    ∃ w m log, Completes .recv s (.count b) { s with
        buf := m, bufDefined := b.toNat
        completions := s.completions ++ [.count b]
        work := w
        env := { s.env with rxLevels := moreLevels, fifo := moreBytes }
        spins := log
        trace := s.trace ++ [.wr 0x10#8 s.cfg.fcrResetEnable, .wr 0x78#8 s.cfg.efcrRxOnly,
          .rd 0x48#8 a, .rd 0x48#8 b, .rb 0x00#8 b bytes]
          ++ List.replicate (s.cfg.rxMaxWait + 1) (.rd 0x48#8 0#8) } ∧
      ∀ j, Memory.get m j = if j < b.toNat then bytes[j]? else Memory.get s.buf j

/-- R126(e), R132, R146, R172. A level at or above the capacity fills the buffer and ends the reception at once: RECV reads
RX_CAPACITY bytes, polls no more, returns RX_CAPACITY and raises no error. -/
def Obligations.FreshReceiveStopsAtTheCapacity : Prop :=
  ∀ (s : State) (a b : Byte) (bytes moreLevels moreBytes : List Byte),
    s.Inv → s.phase = .idle → s.inSession = true → s.pending = 0#8 →
    a ≠ 0#8 → s.cfg.rxCapacity ≤ b.toNat → 0 < s.cfg.rxMaxWait →
    s.env.rxLevels = a :: b :: moreLevels →
    s.env.fifo = bytes ++ moreBytes → bytes.length = s.cfg.rxCapacity →
    ∃ w m, Completes .recv s (.count (BitVec.ofNat 8 s.cfg.rxCapacity)) { s with
        buf := m, bufDefined := s.cfg.rxCapacity
        completions := s.completions ++ [.count (BitVec.ofNat 8 s.cfg.rxCapacity)]
        work := w
        env := { s.env with rxLevels := moreLevels, fifo := moreBytes }
        trace := s.trace ++ [.wr 0x10#8 s.cfg.fcrResetEnable, .wr 0x78#8 s.cfg.efcrRxOnly,
          .rd 0x48#8 a, .rd 0x48#8 b, .rb 0x00#8 (BitVec.ofNat 8 s.cfg.rxCapacity) bytes] } ∧
      ∀ j, Memory.get m j = if j < s.cfg.rxCapacity then bytes[j]? else Memory.get s.buf j

/-- R132, R76, R134. Every count RECV gives is at most RX_CAPACITY, from any state that meets the invariant. -/
def Obligations.ReceivedCountsStayWithinTheCapacity : Prop :=
  ∀ (s t : State) (r : Byte), s.Inv → step s = .next t →
    t.completions = s.completions ++ [.count r] → r.toNat ≤ s.cfg.rxCapacity

/-- R133(a), R176. Under E-MONO an RXWAIT ends, in RECV and in SEND, whatever else the environment answers, within the number
of bus primitives the rule gives. -/
def Obligations.ReceiveTerminatesUnderEMono : Prop :=
  ∀ (s : State) (i : Instr) (inside : RxPos → Running) (behind : Running), s.Inv → Listener i inside behind →
    s.phase = .busy (inside .poll) → s.work.iw = 0#16 → EMono i inside s →
    ∃ n t, execN i n s = .next t ∧ t.phase = .busy behind ∧ t.completions = s.completions ∧
      (newEvents s t).length ≤ (s.cfg.rxCapacity + 1) * (s.cfg.rxMaxWait + 3) + s.work.rb.toNat + 1

/-- R133(b), R126(d), R144. Without E-MONO a reception may go on for ever: while every wait's read is nonzero and every re-read
is 0, RXWAIT comes back to its wait with nothing received, each pass an empty burst, for any number of passes. -/
def Obligations.ZeroRereadsHoldReceptionForEver : Prop :=
  ∀ (s : State) (i : Instr) (inside : RxPos → Running) (behind : Running) (a : Byte) (more : List Byte) (n : Nat),
    s.Inv → Listener i inside behind → s.phase = .busy (inside .poll) → s.work.iw = 0#16 →
    s.work.rb ≠ 0#16 → 0 < s.cfg.rxMaxWait → a ≠ 0#8 →
    s.env.rxLevels = (List.replicate n [a, 0#8]).flatten ++ more →
    ∃ w, w.total = s.work.total ∧ execN i (4 * n) s = .next { s with
      work := w
      env := { s.env with rxLevels := more }
      trace := s.trace ++ (List.replicate n [.rd 0x48#8 a, .rd 0x48#8 0#8, .rb 0x00#8 0#8 []]).flatten }

/-! ## Frames: what a step of each command leaves unchanged -/

/-- R109, R105. A step of INIT: PENDING, the session, FAULT, every byte of the buffer, the ports and the working registers but
`k`, `level` and `n` stay; INITIALIZED changes only at its end. -/
def Obligations.InitFrame : Prop :=
  ∀ s t : State, exec .init s = .next t →
    t.cfg = s.cfg ∧ t.pending = s.pending ∧ t.inSession = s.inSession ∧ t.fault = s.fault ∧
    t.faultInfo = s.faultInfo ∧ t.bufDefined = s.bufDefined ∧ t.bufReads = s.bufReads ∧ t.requests = s.requests ∧
    (∀ a, Memory.get t.buf a = Memory.get s.buf a) ∧
    (s.phase ≠ .busy (.init .finish) → t.initialized = s.initialized ∧ t.completions = s.completions) ∧
    t.work = { s.work with k := t.work.k, level := t.work.level, n := t.work.n }

/-- R113, R114. A step of BEGIN: FAULT, every byte of the buffer, the ports and the working registers but `k`, `level` and `n`
stay; PENDING, IN_SESSION and what of the buffer is defined change only at its end, INITIALIZED only from 0 to 1. -/
def Obligations.BeginFrame : Prop :=
  ∀ s t : State, exec .beginSession s = .next t →
    t.cfg = s.cfg ∧ t.fault = s.fault ∧ t.faultInfo = s.faultInfo ∧ t.bufReads = s.bufReads ∧
    t.requests = s.requests ∧
    (∀ a, Memory.get t.buf a = Memory.get s.buf a) ∧
    (s.phase ≠ .busy (.beginSession .finish) →
      t.pending = s.pending ∧ t.inSession = s.inSession ∧ t.bufDefined = s.bufDefined ∧
      t.completions = s.completions) ∧
    (t.initialized = s.initialized ∨ t.initialized = true) ∧
    t.work = { s.work with k := t.work.k, level := t.work.level, n := t.work.n }

/-- R115. A step of END: it changes `phase`, the bus trace, and at its end IN_SESSION and the completions; nothing else. -/
def Obligations.EndFrame : Prop :=
  ∀ s t : State, exec .endSession s = .next t →
    t = { s with phase := t.phase, trace := t.trace, inSession := t.inSession, completions := t.completions } ∧
    (∀ a, Memory.get t.buf a = Memory.get s.buf a) ∧
    (s.phase ≠ .busy (.endSession .finish) → t.inSession = s.inSession ∧ t.completions = s.completions)

/-- R118, R120, R121, R125. A step of SEND: INITIALIZED, IN_SESSION, the ports and the working register `k` stay; PENDING and
what of the buffer is defined change only at its end; FAULT and FAULT_INFO only when it is refused outside a session; and
every byte of the buffer outside `buf[total..total+n)` reads as before, every byte at all except in its store. -/
def Obligations.SendFrame : Prop :=
  ∀ (s t : State) (len : Byte) (payload : List Byte), exec (.send len payload) s = .next t →
    t.cfg = s.cfg ∧ t.initialized = s.initialized ∧ t.inSession = s.inSession ∧ t.bufReads = s.bufReads ∧
    t.requests = s.requests ∧ t.work.k = s.work.k ∧
    (s.phase ≠ .busy (.send len payload .finish) →
      t.pending = s.pending ∧ t.bufDefined = s.bufDefined ∧ t.completions = s.completions) ∧
    ((s.phase ≠ .idle ∨ s.inSession = true) → t.fault = s.fault ∧ t.faultInfo = s.faultInfo) ∧
    (s.phase ≠ .busy (.send len payload (.listen .store)) → ∀ a, Memory.get t.buf a = Memory.get s.buf a) ∧
    ∀ a, (a < s.work.total.toNat ∨ s.work.total.toNat + s.work.n.toNat ≤ a) →
      Memory.get t.buf a = Memory.get s.buf a

/-- R127, R125. A step of RECV: INITIALIZED, IN_SESSION, the ports and the working registers `k`, `offset`, `remaining` and
`lsr` stay; PENDING changes only on the cached path; what of the buffer is defined only at its end; FAULT and FAULT_INFO only
when it is refused outside a session; and every byte of the buffer outside `buf[total..total+n)` reads as before, every byte
at all except in its store. -/
def Obligations.RecvFrame : Prop :=
  ∀ s t : State, exec .recv s = .next t →
    t.cfg = s.cfg ∧ t.initialized = s.initialized ∧ t.inSession = s.inSession ∧ t.bufReads = s.bufReads ∧
    t.requests = s.requests ∧ t.work.k = s.work.k ∧ t.work.offset = s.work.offset ∧
    t.work.remaining = s.work.remaining ∧ t.work.lsr = s.work.lsr ∧
    (s.phase ≠ .busy (.recv .cached) → t.pending = s.pending) ∧
    (s.phase ≠ .busy (.recv .finish) → t.bufDefined = s.bufDefined) ∧
    (s.phase ≠ .busy (.recv .cached) → s.phase ≠ .busy (.recv .finish) → t.completions = s.completions) ∧
    ((s.phase ≠ .idle ∨ s.inSession = true) → t.fault = s.fault ∧ t.faultInfo = s.faultInfo) ∧
    (s.phase ≠ .busy (.recv (.listen .store)) → ∀ a, Memory.get t.buf a = Memory.get s.buf a) ∧
    ∀ a, (a < s.work.total.toNat ∨ s.work.total.toNat + s.work.n.toNat ≤ a) →
      Memory.get t.buf a = Memory.get s.buf a

/-! ## The settle delays -/

/-- R105 (steps 4, 5, 8 and 10), R24. Where BRINGUP has its settle delays, in INIT and in BEGIN: a step of its own behind the
IO-state write of step 4, and one behind the first REARM, neither with a bus event nor a change but FLUSH's entry behind the
second (`k` at 0, and no pass with FLUSH_MAX_ITER = 0); and step 10 goes from its REARM to its FLUSH with no delay. (That a
delay is a step is log 10.) -/
def Obligations.SettleDelaysStandWhereBringupHasThem : Prop :=
  ∀ (s : State) (i : Instr) (inside : BringupPos → Running), Bringer i inside →
    (s.phase = .busy (inside .pins) →
      exec i s = .next { s with phase := .busy (inside .settleFirst), trace := s.trace ++ [.wr 0x58#8 0x00#8] }) ∧
    (s.phase = .busy (inside .settleFirst) →
      ∃ log, exec i s = .next { s with phase := .busy (inside (.divprog .first .dlabOn)), spins := log }) ∧
    (s.phase = .busy (inside (.rearm .first .receiver)) →
      exec i s = .next { s with
        phase := .busy (inside .settleSecond), trace := s.trace ++ [.wr 0x78#8 s.cfg.efcrRxOnly] }) ∧
    (s.phase = .busy (inside .settleSecond) →
      ∃ log, exec i s = .next { s with
        phase := .busy (inside (if 0 < s.cfg.flushMaxIter then .flush .first .poll else .divprog .second .dlabOn))
        spins := log
        work := { s.work with k := 0#16 } }) ∧
    (s.phase = .busy (inside (.rearm .second .receiver)) →
      ∃ t, exec i s = .next t ∧ t.trace = s.trace ++ [.wr 0x78#8 s.cfg.efcrRxOnly] ∧
        t.work = { s.work with k := 0#16 } ∧
        (0 < s.cfg.flushMaxIter → t.phase = .busy (inside (.flush .second .poll))) ∧
        ∀ p, t.phase = .busy (inside p) → p = .flush .second .poll)
end

