-- ==== Sys2Proof/Laws/State.lean ====
section
/-! SUPPORT. One lemma per field per update of the state: what each named operation of Machine/Ops.lean writes, and that it
leaves every other field as it was. -/

namespace Sys2Proof.Machine

section Updates

variable (s : State)

@[simp] theorem record_cfg (e : BusEvent) : (s.record e).cfg = s.cfg := rfl
@[simp] theorem record_phase (e : BusEvent) : (s.record e).phase = s.phase := rfl
@[simp] theorem record_initialized (e : BusEvent) : (s.record e).initialized = s.initialized := rfl
@[simp] theorem record_pending (e : BusEvent) : (s.record e).pending = s.pending := rfl
@[simp] theorem record_inSession (e : BusEvent) : (s.record e).inSession = s.inSession := rfl
@[simp] theorem record_fault (e : BusEvent) : (s.record e).fault = s.fault := rfl
@[simp] theorem record_faultInfo (e : BusEvent) : (s.record e).faultInfo = s.faultInfo := rfl
@[simp] theorem record_buf (e : BusEvent) : (s.record e).buf = s.buf := rfl
@[simp] theorem record_bufDefined (e : BusEvent) : (s.record e).bufDefined = s.bufDefined := rfl
@[simp] theorem record_work (e : BusEvent) : (s.record e).work = s.work := rfl
@[simp] theorem record_trace (e : BusEvent) : (s.record e).trace = s.trace ++ [e] := rfl
@[simp] theorem record_spins (e : BusEvent) : (s.record e).spins = s.spins := rfl
@[simp] theorem record_completions (e : BusEvent) : (s.record e).completions = s.completions := rfl
@[simp] theorem record_bufReads (e : BusEvent) : (s.record e).bufReads = s.bufReads := rfl
@[simp] theorem record_requests (e : BusEvent) : (s.record e).requests = s.requests := rfl
@[simp] theorem record_env (e : BusEvent) : (s.record e).env = s.env := rfl
@[simp] theorem record_draws (e : BusEvent) : (s.record e).draws = s.draws := rfl

@[simp] theorem writeByte_cfg (r : Reg) (v : Byte) : (s.writeByte r v).cfg = s.cfg := rfl
@[simp] theorem writeByte_phase (r : Reg) (v : Byte) : (s.writeByte r v).phase = s.phase := rfl
@[simp] theorem writeByte_initialized (r : Reg) (v : Byte) : (s.writeByte r v).initialized = s.initialized := rfl
@[simp] theorem writeByte_pending (r : Reg) (v : Byte) : (s.writeByte r v).pending = s.pending := rfl
@[simp] theorem writeByte_inSession (r : Reg) (v : Byte) : (s.writeByte r v).inSession = s.inSession := rfl
@[simp] theorem writeByte_fault (r : Reg) (v : Byte) : (s.writeByte r v).fault = s.fault := rfl
@[simp] theorem writeByte_faultInfo (r : Reg) (v : Byte) : (s.writeByte r v).faultInfo = s.faultInfo := rfl
@[simp] theorem writeByte_buf (r : Reg) (v : Byte) : (s.writeByte r v).buf = s.buf := rfl
@[simp] theorem writeByte_bufDefined (r : Reg) (v : Byte) : (s.writeByte r v).bufDefined = s.bufDefined := rfl
@[simp] theorem writeByte_work (r : Reg) (v : Byte) : (s.writeByte r v).work = s.work := rfl
@[simp] theorem writeByte_trace (r : Reg) (v : Byte) : (s.writeByte r v).trace = s.trace ++ [.wr r.offset v] := rfl
@[simp] theorem writeByte_spins (r : Reg) (v : Byte) : (s.writeByte r v).spins = s.spins := rfl
@[simp] theorem writeByte_completions (r : Reg) (v : Byte) : (s.writeByte r v).completions = s.completions := rfl
@[simp] theorem writeByte_bufReads (r : Reg) (v : Byte) : (s.writeByte r v).bufReads = s.bufReads := rfl
@[simp] theorem writeByte_requests (r : Reg) (v : Byte) : (s.writeByte r v).requests = s.requests := rfl
@[simp] theorem writeByte_env (r : Reg) (v : Byte) : (s.writeByte r v).env = s.env := rfl
@[simp] theorem writeByte_draws (r : Reg) (v : Byte) : (s.writeByte r v).draws = s.draws := rfl

@[simp] theorem writeBurst_cfg (r : Reg) (bs : List Byte) : (s.writeBurst r bs).cfg = s.cfg := rfl
@[simp] theorem writeBurst_phase (r : Reg) (bs : List Byte) : (s.writeBurst r bs).phase = s.phase := rfl
@[simp] theorem writeBurst_initialized (r : Reg) (bs : List Byte) : (s.writeBurst r bs).initialized = s.initialized := rfl
@[simp] theorem writeBurst_pending (r : Reg) (bs : List Byte) : (s.writeBurst r bs).pending = s.pending := rfl
@[simp] theorem writeBurst_inSession (r : Reg) (bs : List Byte) : (s.writeBurst r bs).inSession = s.inSession := rfl
@[simp] theorem writeBurst_fault (r : Reg) (bs : List Byte) : (s.writeBurst r bs).fault = s.fault := rfl
@[simp] theorem writeBurst_faultInfo (r : Reg) (bs : List Byte) : (s.writeBurst r bs).faultInfo = s.faultInfo := rfl
@[simp] theorem writeBurst_buf (r : Reg) (bs : List Byte) : (s.writeBurst r bs).buf = s.buf := rfl
@[simp] theorem writeBurst_bufDefined (r : Reg) (bs : List Byte) : (s.writeBurst r bs).bufDefined = s.bufDefined := rfl
@[simp] theorem writeBurst_work (r : Reg) (bs : List Byte) : (s.writeBurst r bs).work = s.work := rfl
@[simp] theorem writeBurst_trace (r : Reg) (bs : List Byte) : (s.writeBurst r bs).trace = s.trace ++ [.wb r.offset bs] := rfl
@[simp] theorem writeBurst_spins (r : Reg) (bs : List Byte) : (s.writeBurst r bs).spins = s.spins := rfl
@[simp] theorem writeBurst_completions (r : Reg) (bs : List Byte) : (s.writeBurst r bs).completions = s.completions := rfl
@[simp] theorem writeBurst_bufReads (r : Reg) (bs : List Byte) : (s.writeBurst r bs).bufReads = s.bufReads := rfl
@[simp] theorem writeBurst_requests (r : Reg) (bs : List Byte) : (s.writeBurst r bs).requests = s.requests := rfl
@[simp] theorem writeBurst_env (r : Reg) (bs : List Byte) : (s.writeBurst r bs).env = s.env := rfl
@[simp] theorem writeBurst_draws (r : Reg) (bs : List Byte) : (s.writeBurst r bs).draws = s.draws := rfl

@[simp] theorem spin_cfg (n : Nat) : (s.spin n).cfg = s.cfg := rfl
@[simp] theorem spin_phase (n : Nat) : (s.spin n).phase = s.phase := rfl
@[simp] theorem spin_initialized (n : Nat) : (s.spin n).initialized = s.initialized := rfl
@[simp] theorem spin_pending (n : Nat) : (s.spin n).pending = s.pending := rfl
@[simp] theorem spin_inSession (n : Nat) : (s.spin n).inSession = s.inSession := rfl
@[simp] theorem spin_fault (n : Nat) : (s.spin n).fault = s.fault := rfl
@[simp] theorem spin_faultInfo (n : Nat) : (s.spin n).faultInfo = s.faultInfo := rfl
@[simp] theorem spin_buf (n : Nat) : (s.spin n).buf = s.buf := rfl
@[simp] theorem spin_bufDefined (n : Nat) : (s.spin n).bufDefined = s.bufDefined := rfl
@[simp] theorem spin_work (n : Nat) : (s.spin n).work = s.work := rfl
@[simp] theorem spin_trace (n : Nat) : (s.spin n).trace = s.trace := rfl
@[simp] theorem spin_spins (n : Nat) : (s.spin n).spins = s.spins ++ [n] := rfl
@[simp] theorem spin_completions (n : Nat) : (s.spin n).completions = s.completions := rfl
@[simp] theorem spin_bufReads (n : Nat) : (s.spin n).bufReads = s.bufReads := rfl
@[simp] theorem spin_requests (n : Nat) : (s.spin n).requests = s.requests := rfl
@[simp] theorem spin_env (n : Nat) : (s.spin n).env = s.env := rfl
@[simp] theorem spin_draws (n : Nat) : (s.spin n).draws = s.draws := rfl

@[simp] theorem setWork_cfg (w : Work) : (s.setWork w).cfg = s.cfg := rfl
@[simp] theorem setWork_phase (w : Work) : (s.setWork w).phase = s.phase := rfl
@[simp] theorem setWork_initialized (w : Work) : (s.setWork w).initialized = s.initialized := rfl
@[simp] theorem setWork_pending (w : Work) : (s.setWork w).pending = s.pending := rfl
@[simp] theorem setWork_inSession (w : Work) : (s.setWork w).inSession = s.inSession := rfl
@[simp] theorem setWork_fault (w : Work) : (s.setWork w).fault = s.fault := rfl
@[simp] theorem setWork_faultInfo (w : Work) : (s.setWork w).faultInfo = s.faultInfo := rfl
@[simp] theorem setWork_buf (w : Work) : (s.setWork w).buf = s.buf := rfl
@[simp] theorem setWork_bufDefined (w : Work) : (s.setWork w).bufDefined = s.bufDefined := rfl
@[simp] theorem setWork_work (w : Work) : (s.setWork w).work = w := rfl
@[simp] theorem setWork_trace (w : Work) : (s.setWork w).trace = s.trace := rfl
@[simp] theorem setWork_spins (w : Work) : (s.setWork w).spins = s.spins := rfl
@[simp] theorem setWork_completions (w : Work) : (s.setWork w).completions = s.completions := rfl
@[simp] theorem setWork_bufReads (w : Work) : (s.setWork w).bufReads = s.bufReads := rfl
@[simp] theorem setWork_requests (w : Work) : (s.setWork w).requests = s.requests := rfl
@[simp] theorem setWork_env (w : Work) : (s.setWork w).env = s.env := rfl
@[simp] theorem setWork_draws (w : Work) : (s.setWork w).draws = s.draws := rfl

@[simp] theorem goTo_cfg (r : Running) : (s.goTo r).cfg = s.cfg := rfl
@[simp] theorem goTo_phase (r : Running) : (s.goTo r).phase = .busy r := rfl
@[simp] theorem goTo_initialized (r : Running) : (s.goTo r).initialized = s.initialized := rfl
@[simp] theorem goTo_pending (r : Running) : (s.goTo r).pending = s.pending := rfl
@[simp] theorem goTo_inSession (r : Running) : (s.goTo r).inSession = s.inSession := rfl
@[simp] theorem goTo_fault (r : Running) : (s.goTo r).fault = s.fault := rfl
@[simp] theorem goTo_faultInfo (r : Running) : (s.goTo r).faultInfo = s.faultInfo := rfl
@[simp] theorem goTo_buf (r : Running) : (s.goTo r).buf = s.buf := rfl
@[simp] theorem goTo_bufDefined (r : Running) : (s.goTo r).bufDefined = s.bufDefined := rfl
@[simp] theorem goTo_work (r : Running) : (s.goTo r).work = s.work := rfl
@[simp] theorem goTo_trace (r : Running) : (s.goTo r).trace = s.trace := rfl
@[simp] theorem goTo_spins (r : Running) : (s.goTo r).spins = s.spins := rfl
@[simp] theorem goTo_completions (r : Running) : (s.goTo r).completions = s.completions := rfl
@[simp] theorem goTo_bufReads (r : Running) : (s.goTo r).bufReads = s.bufReads := rfl
@[simp] theorem goTo_requests (r : Running) : (s.goTo r).requests = s.requests := rfl
@[simp] theorem goTo_env (r : Running) : (s.goTo r).env = s.env := rfl
@[simp] theorem goTo_draws (r : Running) : (s.goTo r).draws = s.draws := rfl

@[simp] theorem complete_cfg (c : Completion) : (s.complete c).cfg = s.cfg := rfl
@[simp] theorem complete_phase (c : Completion) : (s.complete c).phase = .idle := rfl
@[simp] theorem complete_initialized (c : Completion) : (s.complete c).initialized = s.initialized := rfl
@[simp] theorem complete_pending (c : Completion) : (s.complete c).pending = s.pending := rfl
@[simp] theorem complete_inSession (c : Completion) : (s.complete c).inSession = s.inSession := rfl
@[simp] theorem complete_fault (c : Completion) : (s.complete c).fault = s.fault := rfl
@[simp] theorem complete_faultInfo (c : Completion) : (s.complete c).faultInfo = s.faultInfo := rfl
@[simp] theorem complete_buf (c : Completion) : (s.complete c).buf = s.buf := rfl
@[simp] theorem complete_bufDefined (c : Completion) : (s.complete c).bufDefined = s.bufDefined := rfl
@[simp] theorem complete_work (c : Completion) : (s.complete c).work = s.work := rfl
@[simp] theorem complete_trace (c : Completion) : (s.complete c).trace = s.trace := rfl
@[simp] theorem complete_spins (c : Completion) : (s.complete c).spins = s.spins := rfl
@[simp] theorem complete_completions (c : Completion) : (s.complete c).completions = s.completions ++ [c] := rfl
@[simp] theorem complete_bufReads (c : Completion) : (s.complete c).bufReads = s.bufReads := rfl
@[simp] theorem complete_requests (c : Completion) : (s.complete c).requests = s.requests := rfl
@[simp] theorem complete_env (c : Completion) : (s.complete c).env = s.env := rfl
@[simp] theorem complete_draws (c : Completion) : (s.complete c).draws = s.draws := rfl

@[simp] theorem raiseFault_cfg (c : FaultCode) (i : FaultInfo) : (s.raiseFault c i).cfg = s.cfg := rfl
@[simp] theorem raiseFault_phase (c : FaultCode) (i : FaultInfo) : (s.raiseFault c i).phase = .halted := rfl
@[simp] theorem raiseFault_initialized (c : FaultCode) (i : FaultInfo) : (s.raiseFault c i).initialized = s.initialized := rfl
@[simp] theorem raiseFault_pending (c : FaultCode) (i : FaultInfo) : (s.raiseFault c i).pending = s.pending := rfl
@[simp] theorem raiseFault_inSession (c : FaultCode) (i : FaultInfo) : (s.raiseFault c i).inSession = s.inSession := rfl
@[simp] theorem raiseFault_fault (c : FaultCode) (i : FaultInfo) : (s.raiseFault c i).fault = c.code := rfl
@[simp] theorem raiseFault_faultInfo (c : FaultCode) (i : FaultInfo) : (s.raiseFault c i).faultInfo = some i := rfl
@[simp] theorem raiseFault_buf (c : FaultCode) (i : FaultInfo) : (s.raiseFault c i).buf = s.buf := rfl
@[simp] theorem raiseFault_bufDefined (c : FaultCode) (i : FaultInfo) : (s.raiseFault c i).bufDefined = s.bufDefined := rfl
@[simp] theorem raiseFault_work (c : FaultCode) (i : FaultInfo) : (s.raiseFault c i).work = s.work := rfl
@[simp] theorem raiseFault_trace (c : FaultCode) (i : FaultInfo) : (s.raiseFault c i).trace = s.trace := rfl
@[simp] theorem raiseFault_spins (c : FaultCode) (i : FaultInfo) : (s.raiseFault c i).spins = s.spins := rfl
@[simp] theorem raiseFault_completions (c : FaultCode) (i : FaultInfo) : (s.raiseFault c i).completions = s.completions := rfl
@[simp] theorem raiseFault_bufReads (c : FaultCode) (i : FaultInfo) : (s.raiseFault c i).bufReads = s.bufReads := rfl
@[simp] theorem raiseFault_requests (c : FaultCode) (i : FaultInfo) : (s.raiseFault c i).requests = s.requests := rfl
@[simp] theorem raiseFault_env (c : FaultCode) (i : FaultInfo) : (s.raiseFault c i).env = s.env := rfl
@[simp] theorem raiseFault_draws (c : FaultCode) (i : FaultInfo) : (s.raiseFault c i).draws = s.draws := rfl

@[simp] theorem draw_value : s.draw.1 = Config.draw s.draws := rfl
@[simp] theorem draw_cfg : (s.draw.2).cfg = s.cfg := rfl
@[simp] theorem draw_phase : (s.draw.2).phase = s.phase := rfl
@[simp] theorem draw_initialized : (s.draw.2).initialized = s.initialized := rfl
@[simp] theorem draw_pending : (s.draw.2).pending = s.pending := rfl
@[simp] theorem draw_inSession : (s.draw.2).inSession = s.inSession := rfl
@[simp] theorem draw_fault : (s.draw.2).fault = s.fault := rfl
@[simp] theorem draw_faultInfo : (s.draw.2).faultInfo = s.faultInfo := rfl
@[simp] theorem draw_buf : (s.draw.2).buf = s.buf := rfl
@[simp] theorem draw_bufDefined : (s.draw.2).bufDefined = s.bufDefined := rfl
@[simp] theorem draw_work : (s.draw.2).work = s.work := rfl
@[simp] theorem draw_trace : (s.draw.2).trace = s.trace := rfl
@[simp] theorem draw_spins : (s.draw.2).spins = s.spins := rfl
@[simp] theorem draw_completions : (s.draw.2).completions = s.completions := rfl
@[simp] theorem draw_bufReads : (s.draw.2).bufReads = s.bufReads := rfl
@[simp] theorem draw_requests : (s.draw.2).requests = s.requests := rfl
@[simp] theorem draw_env : (s.draw.2).env = s.env := rfl
@[simp] theorem draw_draws : (s.draw.2).draws = s.draws + 1 := rfl

end Updates

/-! Reads: an answer takes from the environment's queues or from the free values, and touches nothing else. -/

section Reads

variable (s : State)

@[simp] theorem answer_cfg (r : Reg) : ((s.answer r).2).cfg = s.cfg := by
  unfold State.answer; split <;> rfl

@[simp] theorem answer_phase (r : Reg) : ((s.answer r).2).phase = s.phase := by
  unfold State.answer; split <;> rfl

@[simp] theorem answer_initialized (r : Reg) : ((s.answer r).2).initialized = s.initialized := by
  unfold State.answer; split <;> rfl

@[simp] theorem answer_pending (r : Reg) : ((s.answer r).2).pending = s.pending := by
  unfold State.answer; split <;> rfl

@[simp] theorem answer_inSession (r : Reg) : ((s.answer r).2).inSession = s.inSession := by
  unfold State.answer; split <;> rfl

@[simp] theorem answer_fault (r : Reg) : ((s.answer r).2).fault = s.fault := by
  unfold State.answer; split <;> rfl

@[simp] theorem answer_faultInfo (r : Reg) : ((s.answer r).2).faultInfo = s.faultInfo := by
  unfold State.answer; split <;> rfl

@[simp] theorem answer_buf (r : Reg) : ((s.answer r).2).buf = s.buf := by
  unfold State.answer; split <;> rfl

@[simp] theorem answer_bufDefined (r : Reg) : ((s.answer r).2).bufDefined = s.bufDefined := by
  unfold State.answer; split <;> rfl

@[simp] theorem answer_work (r : Reg) : ((s.answer r).2).work = s.work := by
  unfold State.answer; split <;> rfl

@[simp] theorem answer_trace (r : Reg) : ((s.answer r).2).trace = s.trace := by
  unfold State.answer; split <;> rfl

@[simp] theorem answer_spins (r : Reg) : ((s.answer r).2).spins = s.spins := by
  unfold State.answer; split <;> rfl

@[simp] theorem answer_completions (r : Reg) : ((s.answer r).2).completions = s.completions := by
  unfold State.answer; split <;> rfl

@[simp] theorem answer_bufReads (r : Reg) : ((s.answer r).2).bufReads = s.bufReads := by
  unfold State.answer; split <;> rfl

@[simp] theorem answer_requests (r : Reg) : ((s.answer r).2).requests = s.requests := by
  unfold State.answer; split <;> rfl

@[simp] theorem answers_cfg (r : Reg) (n : Nat) : (State.answers r n s).2.cfg = s.cfg := by
  induction n generalizing s with
  | zero => rfl
  | succ n ih => simp [State.answers, ih]

@[simp] theorem answers_phase (r : Reg) (n : Nat) : (State.answers r n s).2.phase = s.phase := by
  induction n generalizing s with
  | zero => rfl
  | succ n ih => simp [State.answers, ih]

@[simp] theorem answers_initialized (r : Reg) (n : Nat) : (State.answers r n s).2.initialized = s.initialized := by
  induction n generalizing s with
  | zero => rfl
  | succ n ih => simp [State.answers, ih]

@[simp] theorem answers_pending (r : Reg) (n : Nat) : (State.answers r n s).2.pending = s.pending := by
  induction n generalizing s with
  | zero => rfl
  | succ n ih => simp [State.answers, ih]

@[simp] theorem answers_inSession (r : Reg) (n : Nat) : (State.answers r n s).2.inSession = s.inSession := by
  induction n generalizing s with
  | zero => rfl
  | succ n ih => simp [State.answers, ih]

@[simp] theorem answers_fault (r : Reg) (n : Nat) : (State.answers r n s).2.fault = s.fault := by
  induction n generalizing s with
  | zero => rfl
  | succ n ih => simp [State.answers, ih]

@[simp] theorem answers_faultInfo (r : Reg) (n : Nat) : (State.answers r n s).2.faultInfo = s.faultInfo := by
  induction n generalizing s with
  | zero => rfl
  | succ n ih => simp [State.answers, ih]

@[simp] theorem answers_buf (r : Reg) (n : Nat) : (State.answers r n s).2.buf = s.buf := by
  induction n generalizing s with
  | zero => rfl
  | succ n ih => simp [State.answers, ih]

@[simp] theorem answers_bufDefined (r : Reg) (n : Nat) : (State.answers r n s).2.bufDefined = s.bufDefined := by
  induction n generalizing s with
  | zero => rfl
  | succ n ih => simp [State.answers, ih]

@[simp] theorem answers_work (r : Reg) (n : Nat) : (State.answers r n s).2.work = s.work := by
  induction n generalizing s with
  | zero => rfl
  | succ n ih => simp [State.answers, ih]

@[simp] theorem answers_trace (r : Reg) (n : Nat) : (State.answers r n s).2.trace = s.trace := by
  induction n generalizing s with
  | zero => rfl
  | succ n ih => simp [State.answers, ih]

@[simp] theorem answers_spins (r : Reg) (n : Nat) : (State.answers r n s).2.spins = s.spins := by
  induction n generalizing s with
  | zero => rfl
  | succ n ih => simp [State.answers, ih]

@[simp] theorem answers_completions (r : Reg) (n : Nat) : (State.answers r n s).2.completions = s.completions := by
  induction n generalizing s with
  | zero => rfl
  | succ n ih => simp [State.answers, ih]

@[simp] theorem answers_bufReads (r : Reg) (n : Nat) : (State.answers r n s).2.bufReads = s.bufReads := by
  induction n generalizing s with
  | zero => rfl
  | succ n ih => simp [State.answers, ih]

@[simp] theorem answers_requests (r : Reg) (n : Nat) : (State.answers r n s).2.requests = s.requests := by
  induction n generalizing s with
  | zero => rfl
  | succ n ih => simp [State.answers, ih]

@[simp] theorem readByte_cfg (r : Reg) : ((s.readByte r).2).cfg = s.cfg := by
  simp [State.readByte]

@[simp] theorem readByte_phase (r : Reg) : ((s.readByte r).2).phase = s.phase := by
  simp [State.readByte]

@[simp] theorem readByte_initialized (r : Reg) : ((s.readByte r).2).initialized = s.initialized := by
  simp [State.readByte]

@[simp] theorem readByte_pending (r : Reg) : ((s.readByte r).2).pending = s.pending := by
  simp [State.readByte]

@[simp] theorem readByte_inSession (r : Reg) : ((s.readByte r).2).inSession = s.inSession := by
  simp [State.readByte]

@[simp] theorem readByte_fault (r : Reg) : ((s.readByte r).2).fault = s.fault := by
  simp [State.readByte]

@[simp] theorem readByte_faultInfo (r : Reg) : ((s.readByte r).2).faultInfo = s.faultInfo := by
  simp [State.readByte]

@[simp] theorem readByte_buf (r : Reg) : ((s.readByte r).2).buf = s.buf := by
  simp [State.readByte]

@[simp] theorem readByte_bufDefined (r : Reg) : ((s.readByte r).2).bufDefined = s.bufDefined := by
  simp [State.readByte]

@[simp] theorem readByte_work (r : Reg) : ((s.readByte r).2).work = s.work := by
  simp [State.readByte]

@[simp] theorem readByte_trace (r : Reg) : ((s.readByte r).2).trace = s.trace ++ [.rd r.offset (s.answer r).1] := by
  simp [State.readByte]

@[simp] theorem readByte_spins (r : Reg) : ((s.readByte r).2).spins = s.spins := by
  simp [State.readByte]

@[simp] theorem readByte_completions (r : Reg) : ((s.readByte r).2).completions = s.completions := by
  simp [State.readByte]

@[simp] theorem readByte_bufReads (r : Reg) : ((s.readByte r).2).bufReads = s.bufReads := by
  simp [State.readByte]

@[simp] theorem readByte_requests (r : Reg) : ((s.readByte r).2).requests = s.requests := by
  simp [State.readByte]

@[simp] theorem readByte_value (r : Reg) : (s.readByte r).1 = (s.answer r).1 := rfl

@[simp] theorem readBurst_cfg (r : Reg) (n : Byte) : ((s.readBurst r n).2).cfg = s.cfg := by
  simp [State.readBurst]

@[simp] theorem readBurst_phase (r : Reg) (n : Byte) : ((s.readBurst r n).2).phase = s.phase := by
  simp [State.readBurst]

@[simp] theorem readBurst_initialized (r : Reg) (n : Byte) : ((s.readBurst r n).2).initialized = s.initialized := by
  simp [State.readBurst]

@[simp] theorem readBurst_pending (r : Reg) (n : Byte) : ((s.readBurst r n).2).pending = s.pending := by
  simp [State.readBurst]

@[simp] theorem readBurst_inSession (r : Reg) (n : Byte) : ((s.readBurst r n).2).inSession = s.inSession := by
  simp [State.readBurst]

@[simp] theorem readBurst_fault (r : Reg) (n : Byte) : ((s.readBurst r n).2).fault = s.fault := by
  simp [State.readBurst]

@[simp] theorem readBurst_faultInfo (r : Reg) (n : Byte) : ((s.readBurst r n).2).faultInfo = s.faultInfo := by
  simp [State.readBurst]

@[simp] theorem readBurst_buf (r : Reg) (n : Byte) : ((s.readBurst r n).2).buf = s.buf := by
  simp [State.readBurst]

@[simp] theorem readBurst_bufDefined (r : Reg) (n : Byte) : ((s.readBurst r n).2).bufDefined = s.bufDefined := by
  simp [State.readBurst]

@[simp] theorem readBurst_work (r : Reg) (n : Byte) : ((s.readBurst r n).2).work = s.work := by
  simp [State.readBurst]

@[simp] theorem readBurst_trace (r : Reg) (n : Byte) : ((s.readBurst r n).2).trace = s.trace ++ [.rb r.offset n (State.answers r n.toNat s).1] := by
  simp [State.readBurst]

@[simp] theorem readBurst_spins (r : Reg) (n : Byte) : ((s.readBurst r n).2).spins = s.spins := by
  simp [State.readBurst]

@[simp] theorem readBurst_completions (r : Reg) (n : Byte) : ((s.readBurst r n).2).completions = s.completions := by
  simp [State.readBurst]

@[simp] theorem readBurst_bufReads (r : Reg) (n : Byte) : ((s.readBurst r n).2).bufReads = s.bufReads := by
  simp [State.readBurst]

@[simp] theorem readBurst_requests (r : Reg) (n : Byte) : ((s.readBurst r n).2).requests = s.requests := by
  simp [State.readBurst]

@[simp] theorem readBurst_value (r : Reg) (n : Byte) :
    (s.readBurst r n).1 = (State.answers r n.toNat s).1 := rfl

/-- A burst read returns exactly the count asked (R55). -/
@[simp] theorem answers_length (r : Reg) (n : Nat) : (State.answers r n s).1.length = n := by
  induction n generalizing s with
  | zero => rfl
  | succ n ih => simp [State.answers, ih]

end Reads

end Sys2Proof.Machine
end

