-- ==== Sys2Proof/Laws/Memory.lean ====
section
/-! SUPPORT. The receive buffer's storage: reads after writes, the canonical form, and the one lemma that says all a MemWrite
or a MemRead can do (20_memory.md R58, 43_receive.md R129). -/

namespace Sys2Proof.Machine

/-- A byte just stored is read back, and every other index reads as before. -/
theorem Memory.get_set (m : List Host.Cell) (a b : Nat) (v : Byte) :
    Memory.get (Memory.set m a v) b = if b = a then some v else Memory.get m b := by
  induction m with
  | nil => by_cases h : b = a <;> simp [Memory.set, Memory.get, h]
  | cons c m ih =>
    obtain ⟨d, u⟩ := c
    simp only [Memory.set]
    split
    · by_cases h : b = a <;> simp [Memory.get, h]
    · split
      · rename_i _ h
        subst h
        by_cases h : b = a <;> simp [Memory.get, h]
      · rename_i _ hne
        simp only [Memory.get, ih]
        by_cases hb : b = d
        · subst hb
          have : ¬ b = a := fun h => hne h.symm
          simp [this]
        · simp [hb]

/-- The bytes a MemWrite stores, and the frame of the others (R58). -/
theorem Memory.get_setBytes (bs : List Byte) (m : List Host.Cell) (i a : Nat) :
    Memory.get (Memory.setBytes m i bs) a =
      if h : i ≤ a ∧ a - i < bs.length then some (bs[a - i]'h.2) else Memory.get m a := by
  induction bs generalizing m i with
  | nil => simp [Memory.setBytes]
  | cons b bs ih =>
    simp only [Memory.setBytes, ih, Memory.get_set, List.length_cons]
    by_cases h1 : i + 1 ≤ a ∧ a - (i + 1) < bs.length
    · have h2 : i ≤ a ∧ a - i < bs.length + 1 := by omega
      have h3 : a - i = (a - (i + 1)) + 1 := by omega
      simp [h1, h2, h3]
    · by_cases h2 : a = i
      · subst h2
        simp
      · have h3 : ¬ (i ≤ a ∧ a - i < bs.length + 1) := by omega
        rw [dif_neg h1, dif_neg h3, if_neg h2]

/-- Storing at an index past `a` keeps an entry at `a` in front of the list. -/
theorem Memory.wf_cons_set (a : Nat) (u : Byte) (m : List Host.Cell) (b : Nat) (v : Byte) (hab : a < b)
    (h : Memory.wf ((a, u) :: m) = true) (hm : Memory.wf (Memory.set m b v) = true) :
    Memory.wf ((a, u) :: Memory.set m b v) = true := by
  cases m with
  | nil => simpa [Memory.set, Memory.wf] using hab
  | cons c m =>
    obtain ⟨d, w⟩ := c
    simp only [Memory.wf, Bool.and_eq_true, decide_eq_true_eq] at h
    by_cases h1 : b < d
    · simp only [Memory.set, h1, if_true] at hm ⊢
      simp only [Memory.wf, Bool.and_eq_true, decide_eq_true_eq] at hm ⊢
      exact ⟨hab, hm⟩
    · by_cases h2 : b = d
      · subst h2
        simp only [Memory.set, Nat.lt_irrefl, if_false, if_true] at hm ⊢
        simp only [Memory.wf, Bool.and_eq_true, decide_eq_true_eq]
        exact ⟨hab, hm⟩
      · simp only [Memory.set, h1, h2, if_false] at hm ⊢
        simp only [Memory.wf, Bool.and_eq_true, decide_eq_true_eq]
        exact ⟨h.1, hm⟩

/-- The tail of a canonical list is canonical. -/
theorem Memory.wf_tail (c : Host.Cell) (m : List Host.Cell) (h : Memory.wf (c :: m) = true) : Memory.wf m = true := by
  cases m with
  | nil => rfl
  | cons d m =>
    obtain ⟨a, u⟩ := c
    obtain ⟨b, v⟩ := d
    simp only [Memory.wf, Bool.and_eq_true] at h
    exact h.2

/-- Storing one byte keeps the canonical form. -/
theorem Memory.wf_set (m : List Host.Cell) (a : Nat) (v : Byte) (h : Memory.wf m = true) :
    Memory.wf (Memory.set m a v) = true := by
  induction m with
  | nil => rfl
  | cons c m ih =>
    obtain ⟨d, u⟩ := c
    have hset := ih (Memory.wf_tail _ _ h)
    by_cases h1 : a < d
    · simpa [Memory.set, h1, Memory.wf] using h
    · by_cases h2 : a = d
      · subst h2
        cases m with
        | nil => simp [Memory.set, Memory.wf]
        | cons e m =>
          obtain ⟨f, w⟩ := e
          simpa [Memory.set, Memory.wf] using h
      · have hda : d < a := by omega
        simpa [Memory.set, h1, h2] using Memory.wf_cons_set d u m a v hda h hset

/-- Storing a run of bytes keeps the canonical form. -/
theorem Memory.wf_setBytes (bs : List Byte) (m : List Host.Cell) (i : Nat) (h : Memory.wf m = true) :
    Memory.wf (Memory.setBytes m i bs) = true := by
  induction bs generalizing m i with
  | nil => exact h
  | cons b bs ih => exact ih _ _ (Memory.wf_set m i b h)

/-- Storing inside the buffer keeps every index inside it. -/
theorem Memory.within_set (cap : Nat) (m : List Host.Cell) (a : Nat) (v : Byte) (ha : a < cap)
    (h : Memory.within cap m = true) : Memory.within cap (Memory.set m a v) = true := by
  induction m with
  | nil => simpa [Memory.set, Memory.within] using ha
  | cons c m ih =>
    obtain ⟨d, u⟩ := c
    simp only [Memory.within, List.all_cons, Bool.and_eq_true, decide_eq_true_eq] at h ih
    simp only [Memory.set]
    split
    · simp only [Memory.within, List.all_cons, Bool.and_eq_true, decide_eq_true_eq]
      exact ⟨ha, h.1, h.2⟩
    · split
      · simp only [Memory.within, List.all_cons, Bool.and_eq_true, decide_eq_true_eq]
        exact ⟨ha, h.2⟩
      · simp only [Memory.within, List.all_cons, Bool.and_eq_true, decide_eq_true_eq]
        exact ⟨h.1, ih h.2⟩

/-- A MemWrite in range keeps every index inside the buffer. -/
theorem Memory.within_setBytes (cap : Nat) (bs : List Byte) (m : List Host.Cell) (i : Nat)
    (hi : i + bs.length ≤ cap) (h : Memory.within cap m = true) :
    Memory.within cap (Memory.setBytes m i bs) = true := by
  induction bs generalizing m i with
  | nil => exact h
  | cons b bs ih =>
    simp only [List.length_cons] at hi
    exact ih _ _ (by omega) (Memory.within_set cap m i b (by omega) h)

/-- Everything a MemWrite can do (R58): in range it stores its bytes in `buf` and changes no other field; else it gives
nothing. -/
theorem memWrite_spec (s : State) (i n : Nat) (bs : List Byte) :
    s.memWrite i n bs =
      if i + n ≤ s.cfg.rxCapacity ∧ bs.length = n then some { s with buf := Memory.setBytes s.buf i bs } else none := rfl

/-- The free values drawn are the only thing a buffer read can move (R129). -/
theorem bufByte_spec (s : State) (i : Nat) : ∃ d, (s.bufByte i).2 = { s with draws := d } := by
  unfold State.bufByte
  split
  · exact ⟨s.draws, rfl⟩
  · exact ⟨s.draws + 1, rfl⟩

/-- MemRead gives exactly `n` bytes and changes nothing of the block (R58, R129). -/
theorem memRead_spec (n i : Nat) (s : State) :
    (State.memRead i n s).1.length = n ∧ ∃ d, (State.memRead i n s).2 = { s with draws := d } := by
  induction n generalizing i s with
  | zero => exact ⟨rfl, s.draws, rfl⟩
  | succ n ih =>
    obtain ⟨d, hd⟩ := bufByte_spec s i
    obtain ⟨hl, e, he⟩ := ih (i + 1) (s.bufByte i).2
    refine ⟨by simp [State.memRead, hl], e, ?_⟩
    simp only [State.memRead]
    rw [he, hd]

/-- The memory of the block that leaves reset is in canonical form. -/
theorem reset_memory_wf : Memory.wf State.reset.buf = true := rfl

end Sys2Proof.Machine
end

