-- ==== Sys2Proof/Laws/Operands.lean ====
section
/-! SUPPORT. The operand forms as numbers: one lemma per function of Operands.lean. -/

namespace Sys2Proof.Machine

theorem zext16_toNat (v : Byte) : (zext16 v).toNat = v.toNat := by
  simp only [zext16, BitVec.toNat_setWidth]
  have := v.isLt
  omega

theorem lowByte_toNat (v : Word) (h : v.toNat ≤ 255) : (lowByte v).toNat = v.toNat := by
  simp only [lowByte, BitVec.toNat_setWidth]
  omega

theorem toWord_toNat (v : Nat) (h : v ≤ 65535) : (toWord v).toNat = v := by
  simp only [toWord, BitVec.toNat_ofNat]
  omega

theorem minWord_toNat (a : Word) (b : Nat) : (minWord a b).toNat = min a.toNat b := by
  simp only [minWord, toWord, BitVec.toNat_ofNat]
  have := a.isLt
  omega

/-- A byte that is not 0 is at least 1 as a number. -/
theorem byte_pos {v : Byte} (h : v ≠ 0#8) : 1 ≤ v.toNat := by
  rcases Nat.eq_zero_or_pos v.toNat with h0 | h0
  · exact absurd (BitVec.eq_of_toNat_eq h0) h
  · exact h0

/-- A slice within the payload has the length asked for (R21). -/
theorem payloadSlice_length (payload : List Byte) (offset n : Word)
    (h : offset.toNat + n.toNat ≤ payload.length) : (payloadSlice payload offset n).length = n.toNat := by
  simp only [payloadSlice, List.length_take, List.length_drop]
  omega

end Sys2Proof.Machine
end

