-- ==== Sys2Proof/Laws/PerInstr.lean ====
section
/-! SUPPORT. Statements made per command (LAWS.json): the format of its encoded word (30_encoding.md R77). -/

namespace Sys2Proof.Laws.EncodedFormat

/-- The encoded word has the command's opcode in `w[15:8]` and its length operand in `w[7:0]`, and only SEND has a payload
(R77, R80). -/
def Statement (i : Instr) : Prop :=
  opField (encode i).word = i.opcode ∧ lenField (encode i).word = i.lenOperand ∧
    (i.opcode ≠ sendOpcode → (encode i).payload = [])

theorem opField_commandWord (op len : Byte) : opField (commandWord op len) = op := by
  simp only [opField, commandWord, BitVec.extractLsb'_append_eq_ite]
  simp

theorem lenField_commandWord (op len : Byte) : lenField (commandWord op len) = len := by
  simp only [lenField, commandWord, BitVec.extractLsb'_append_eq_ite]
  simp

theorem init : Statement .init := by unfold Statement; decide

theorem beginSession : Statement .beginSession := by unfold Statement; decide

theorem endSession : Statement .endSession := by unfold Statement; decide

theorem send (len : Byte) (payload : List Byte) : Statement (.send len payload) :=
  ⟨opField_commandWord _ _, lenField_commandWord _ _, fun h => absurd rfl h⟩

theorem recv : Statement .recv := by unfold Statement; decide

end Sys2Proof.Laws.EncodedFormat
end

