-- ==== Sys2Proof/Laws/Procedures.lean ====
section
/-! SUPPORT. What one step of each internal procedure can do: it issues at most one bus event and touches nothing of the block
but its working registers (and, for RXWAIT's store, the receive buffer). One lemma per procedure. -/

namespace Sys2Proof.Machine

/-- `t` is `s` after a step inside a procedure: at most one new bus event, and only the working registers, the log of spins,
the environment's queues and the counter of free values may differ besides. -/
structure Quiet (s t : State) : Prop where
  cfg : t.cfg = s.cfg
  phase : t.phase = s.phase
  initialized : t.initialized = s.initialized
  pending : t.pending = s.pending
  inSession : t.inSession = s.inSession
  fault : t.fault = s.fault
  faultInfo : t.faultInfo = s.faultInfo
  buf : t.buf = s.buf
  bufDefined : t.bufDefined = s.bufDefined
  completions : t.completions = s.completions
  bufReads : t.bufReads = s.bufReads
  requests : t.requests = s.requests
  trace : t.trace = s.trace ∨ ∃ e, t.trace = s.trace ++ [e]

theorem quiet_writeByte (s : State) (r : Reg) (v : Byte) : Quiet s (s.writeByte r v) := by
  constructor <;> simp

theorem quiet_writeBurst (s : State) (r : Reg) (bs : List Byte) : Quiet s (s.writeBurst r bs) := by
  constructor <;> simp

theorem quiet_readByte (s : State) (r : Reg) : Quiet s (s.readByte r).2 := by
  constructor <;> simp

theorem quiet_readBurst (s : State) (r : Reg) (n : Byte) : Quiet s (s.readBurst r n).2 := by
  constructor <;> simp

theorem quiet_spin (s : State) (n : Nat) : Quiet s (s.spin n) := by
  constructor <;> simp

/-- Writing working registers behind a quiet step is quiet. -/
theorem Quiet.setWork {s t : State} (h : Quiet s t) (w : Work) : Quiet s (t.setWork w) := by
  obtain ⟨h1, h2, h3, h4, h5, h6, h7, h8, h9, h10, h11, h12, h13⟩ := h
  constructor <;> simpa

theorem quiet_divprogStep (p : DivPos) (s : State) : Quiet s (divprogStep p s).2 := by
  cases p <;> exact quiet_writeByte ..

theorem quiet_rearmStep (p : RearmPos) (s : State) : Quiet s (rearmStep p s).2 := by
  cases p <;> exact quiet_writeByte ..

theorem quiet_flushStep (p : FlushPos) (s : State) : Quiet s (flushStep p s).2 := by
  cases p
  · simp only [flushStep]
    split <;> exact (quiet_readByte s .rxlvl).setWork _
  · exact (quiet_readBurst s .fifo _).setWork _

/-- A procedure call goes on inside the procedure or behind the call, with the state the procedure left. -/
theorem callProc_cases {π σ : Type} (r : Option π × State) (inside : π → State → σ) (behind : State → σ) :
    (∃ p, r.1 = some p ∧ callProc r inside behind = inside p r.2) ∨
    (r.1 = none ∧ callProc r inside behind = behind r.2) := by
  unfold callProc
  split
  · rename_i p hp
    exact Or.inl ⟨p, hp, rfl⟩
  · rename_i hp
    exact Or.inr ⟨hp, rfl⟩

/-- Entering a flush, or passing behind it, moves `k` alone. -/
theorem bringupFlush_state (q : Pass) (s : State) :
    (bringupFlush q s).2 = s.setWork { s.work with k := 0#16 } := by
  simp only [bringupFlush, callProc, flushEnter, flushHead, State.setWork]
  split
  · rfl
  · cases q <;> rfl

theorem quiet_bringupStep (p : BringupPos) (s : State) : Quiet s (bringupStep p s).2 := by
  cases p with
  | disable => exact quiet_writeByte ..
  | fifoOff => exact quiet_writeByte ..
  | sleepOff => exact quiet_writeByte ..
  | pins => exact quiet_writeByte ..
  | settleFirst => exact quiet_spin ..
  | divprog q d =>
    simp only [bringupStep, callProc]
    split <;> exact quiet_divprogStep d s
  | rearm q r =>
    simp only [bringupStep, callProc]
    split
    · exact quiet_rearmStep r s
    · cases q
      · exact quiet_rearmStep r s
      · simp only [bringupFlush_state]
        exact (quiet_rearmStep r s).setWork _
  | settleSecond =>
    simp only [bringupStep, bringupFlush_state]
    exact (quiet_spin s _).setWork _
  | flush q f =>
    simp only [bringupStep, callProc]
    split
    · exact quiet_flushStep f s
    · cases q <;> exact quiet_flushStep f s

theorem quiet_txqueueStep (len : Byte) (payload : List Byte) (p : TxPos) (s : State) :
    Quiet s (txqueueStep len payload p s).2 := by
  cases p
  · exact quiet_writeBurst ..
  · simp only [txqueueStep]
    split <;> exact (quiet_readByte s .txlvl).setWork _
  · exact (quiet_writeBurst s .fifo _).setWork _

theorem quiet_txdrainStep (s : State) : Quiet s (txdrainStep s).2 := (quiet_readByte s .lsr).setWork _

/-- The three outcomes of a wait's test after its read (R125, R126). -/
theorem rxwaitPolled_cases (v : Byte) (s : State) :
    (waitAgain v s.work ∧ rxwaitPolled v s = (some .pause, s)) ∨
    (¬ waitAgain v s.work ∧ waitExpired s.work ∧ rxwaitPolled v s = rxwaitReturn s) ∨
    (¬ waitAgain v s.work ∧ ¬ waitExpired s.work ∧
      rxwaitPolled v s = (some .reread, s.setWork { s.work with rb := toWord s.cfg.rxMaxWait })) := by
  unfold rxwaitPolled
  by_cases h1 : waitAgain v s.work
  · exact Or.inl ⟨h1, if_pos h1⟩
  · by_cases h2 : waitExpired s.work
    · exact Or.inr (Or.inl ⟨h1, h2, by rw [if_neg h1, if_pos h2]⟩)
    · exact Or.inr (Or.inr ⟨h1, h2, by rw [if_neg h1, if_neg h2]⟩)

/-- Everything a step of RXWAIT but its store can do (R125): it answers, and it is quiet. -/
theorem rxwaitStep_quiet (p : RxPos) (s : State) (h : p ≠ .store) :
    ∃ r, rxwaitStep p s = .next r ∧ Quiet s r.2 := by
  cases p with
  | poll =>
    refine ⟨_, rfl, ?_⟩
    have hq := quiet_readByte s .rxlvl
    rcases rxwaitPolled_cases (s.readByte .rxlvl).1 (s.readByte .rxlvl).2 with ⟨_, e⟩ | ⟨_, _, e⟩ | ⟨_, _, e⟩
      <;> rw [e]
    · exact hq
    · exact hq.setWork _
    · exact hq.setWork _
  | pause => exact ⟨_, rfl, (quiet_spin s _).setWork _⟩
  | reread => exact ⟨_, rfl, (quiet_readByte s .rxlvl).setWork _⟩
  | burst => exact ⟨_, rfl, (quiet_readBurst s .fifo _).setWork _⟩
  | store => exact absurd rfl h

/-- What follows a store (R125): the count grows, and either the buffer is full or the next wait begins. -/
theorem rxwaitStored_cases (s : State) :
    (s.cfg.rxCapacity ≤ (s.work.total + s.work.n).toNat ∧
      rxwaitStored s = (none, s.setWork { s.work with
        total := s.work.total + s.work.n, count := s.work.total + s.work.n })) ∨
    ((s.work.total + s.work.n).toNat < s.cfg.rxCapacity ∧
      rxwaitStored s = (some .poll, s.setWork { s.work with total := s.work.total + s.work.n, iw := 0#16 })) := by
  by_cases h : s.cfg.rxCapacity ≤ (s.work.total + s.work.n).toNat
  · exact Or.inl ⟨h, if_pos h⟩
  · exact Or.inr ⟨Nat.lt_of_not_le h, if_neg h⟩

/-- Everything RXWAIT's store can do (R58, R125): out of range it stops the model; in range it stores the burst at `total`. -/
theorem rxwaitStep_store (s : State) :
    rxwaitStep .store s =
      if s.work.total.toNat + s.work.n.toNat ≤ s.cfg.rxCapacity ∧ s.work.bs.length = s.work.n.toNat then
        .next (rxwaitStored { s with buf := Memory.setBytes s.buf s.work.total.toNat s.work.bs })
      else .fault .memWriteRange := by
  simp only [rxwaitStep, memWrite_spec]
  split <;> simp_all

end Sys2Proof.Machine
end

