-- ==== Sys2Proof/Laws/Runs.lean ====
section
/-! SUPPORT. Runs of one command: what an answer of the environment changes, RXWAIT's step in the two commands that run it,
what one more event does to the measures of a bus trace,
and that a completion that has gone out stays out. -/

namespace Sys2Proof.Machine

/-- An answer of the environment changes its queues and the counter of free values alone (R48). -/
theorem answer_state (s : State) (r : Reg) :
    (s.answer r).2 = { s with env := (s.answer r).2.env, draws := (s.answer r).2.draws } := by
  unfold State.answer
  split <;> rfl

/-- So do several answers in a row. -/
theorem answers_state (r : Reg) (n : Nat) : ∀ s : State,
    (State.answers r n s).2 =
      { s with env := (State.answers r n s).2.env, draws := (State.answers r n s).2.draws } := by
  induction n with
  | zero => exact fun _ => rfl
  | succ n ih =>
    intro s
    simp only [State.answers]
    rw [ih (s.answer r).2, answer_state s r]

/-- A step of a command that is inside RXWAIT is a step of RXWAIT (R32, R125). -/
theorem listener_exec {i : Instr} {inside : RxPos → Running} {behind : Running} (hl : Listener i inside behind)
    {s : State} {q : RxPos} (hq : s.phase = .busy (inside q)) :
    exec i s = mapNext (fun r => callProc r (fun p t => t.goTo (inside p)) (fun t => t.goTo behind))
      (rxwaitStep q s) := by
  cases hl with
  | recv => simp [exec, execRecv, hq, recvStep]
  | send => simp [exec, execSend, hq, sendStep]

/-- What one more event does to the divisor-latch-access bit (R40). -/
theorem dlabAfter_append (p : Params) (es : List BusEvent) (e : BusEvent) :
    dlabAfter p (es ++ [e]) =
      match e with
      | .wr a v => if a = 0x18#8 then some (v == p.lcrDlab) else dlabAfter p es
      | .rd _ _ | .rb _ _ _ | .wb _ _ => dlabAfter p es := by
  cases e <;> simp [dlabAfter, List.foldl_append]

theorem burstBytes_append (es fs : List BusEvent) : burstBytes (es ++ fs) = burstBytes es ++ burstBytes fs := by
  induction es with
  | nil => rfl
  | cons e es ih => cases e <;> simp [burstBytes, ih]

theorem writesTo_append (a : Byte) (es fs : List BusEvent) :
    writesTo a (es ++ fs) = writesTo a es ++ writesTo a fs := by
  induction es with
  | nil => rfl
  | cons e es ih =>
    cases e with
    | wr b v =>
      simp only [List.cons_append, writesTo, ih]
      split <;> rfl
    | rd _ _ => exact ih
    | rb _ _ _ => exact ih
    | wb _ _ => exact ih

/-- Under `callProc` a property of both ways on is a property of the call. -/
theorem callProc_ind {π σ : Type} {P : σ → Prop} (r : Option π × State) (inside : π → State → σ)
    (behind : State → σ) (hi : ∀ p, P (inside p r.2)) (hb : P (behind r.2)) : P (callProc r inside behind) := by
  rcases callProc_cases r inside behind with ⟨p, -, e⟩ | ⟨-, e⟩ <;> rw [e]
  · exact hi p
  · exact hb

/-- The completions of `t` go on from those of `s`. -/
def Extends (s t : State) : Prop := ∃ l, t.completions = s.completions ++ l

theorem extends_same {s t : State} (h : t.completions = s.completions) : Extends s t := ⟨[], by simpa using h⟩

theorem Extends.trans {s t u : State} (h : Extends s t) (k : Extends t u) : Extends s u := by
  obtain ⟨l, h⟩ := h
  obtain ⟨m, k⟩ := k
  exact ⟨l ++ m, by rw [k, h, List.append_assoc]⟩

theorem extends_complete (s : State) (c : Completion) : Extends s (s.complete c) := ⟨[c], rfl⟩

/-- RECV never takes a completion back. -/
theorem execRecv_extends {s t : State} (h : exec .recv s = .next t) : Extends s t := by
  simp only [exec, execRecv] at h
  split at h
  · split at h <;> cases h <;> exact extends_same rfl
  · rename_i p ph
    cases p with
    | cached => cases h; exact ⟨_, rfl⟩
    | finish => cases h; exact ⟨_, rfl⟩
    | rearm r => cases h; cases r <;> exact extends_same (by simp [callProc, rearmStep, rxwaitEnter])
    | listen q =>
      by_cases hq : q = .store
      · subst hq
        simp only [recvStep, rxwaitStep_store] at h
        split at h
        · simp only [mapNext] at h
          cases h
          refine callProc_ind (P := Extends s) _ _ _ (fun p => ?_) ?_ <;>
            rcases rxwaitStored_cases { s with buf := Memory.setBytes s.buf s.work.total.toNat s.work.bs }
              with ⟨-, e⟩ | ⟨-, e⟩ <;> rw [e] <;> exact extends_same rfl
        · cases h
      · obtain ⟨r, hr, hquiet⟩ := rxwaitStep_quiet q s hq
        simp only [recvStep, hr, mapNext] at h
        cases h
        refine callProc_ind (P := Extends s) _ _ _ (fun p => ?_) ?_ <;> exact extends_same hquiet.completions
  all_goals cases h; exact extends_same rfl

/-- Nor does a run of RECV. -/
theorem execN_recv_extends (n : Nat) : ∀ {s t : State}, execN .recv n s = .next t → Extends s t := by
  induction n with
  | zero => intro s t h; cases h; exact extends_same rfl
  | succ n ih =>
    intro s t h
    simp only [execN] at h
    split at h
    · rename_i u hu
      exact (execRecv_extends hu).trans (ih h)
    · cases h
    · cases h

end Sys2Proof.Machine
end

