-- ==== Sys2Proof/Tests/Slice0.lean ====
section
/-! SUPPORT. Tests of the model, with expected results written out from the spec's encodings and its worked vectors
(95_test_vectors.md), and one witness for every statement of Certificates/Slice0 that has hypotheses. -/

namespace Sys2Proof.Tests

open Sys2Proof Sys2Proof.Machine

/-! ## The blocks the tests run -/

/-- The source's parameters, with the candidate codes of 93_implementation_defined.md K-G2 (general knowledge, not in the
source): they instantiate the OPEN codes for these tests alone. -/
def candidate : Params where
  rxCapacity := 136
  rxMaxWait := 40
  rxLongWait := 1000
  txSingleBurstMax := 64
  flushMaxIter := 32
  flushChunk := 64
  settleSpin := 20000
  rxPollDelay := 300
  divisor := 10#16
  efcrBothDisable := 0x06#8
  efcrRxOnly := 0x04#8
  efcrTxOnly := 0x02#8
  fcrResetEnable := 0x07#8
  ierSleepOff := 0x00#8
  ierSleepOn := 0x10#8
  lcrDlab := 0x83#8
  lcr8n1 := 0x03#8
  lsrTxEmptyMask := 0x40#8

/-- The same with small parameters, for runs of a few steps: capacity 4, budgets 2 and 1, chunks of 2 bytes. -/
def small : Params :=
  { candidate with
    rxCapacity := 4, rxMaxWait := 1, rxLongWait := 2, txSingleBurstMax := 2, flushMaxIter := 1, flushChunk := 2 }

theorem candidate_legal : candidate.Legal :=
  ⟨by decide, by decide, by decide, by decide, by decide, by decide, by decide, by decide, by decide, by decide,
    ⟨6, by decide⟩⟩

theorem small_legal : small.Legal :=
  ⟨by decide, by decide, by decide, by decide, by decide, by decide, by decide, by decide, by decide, by decide,
    ⟨6, by decide⟩⟩

/-- After reset, with the candidate codes. -/
def fresh : State := { State.reset with cfg := candidate }

/-- In a session, with small parameters. -/
def session : State := { State.reset with cfg := small, initialized := true, inSession := true }

/-- In a session, running at a position, with these answers to come. -/
def running (r : Running) (e : Env) : State := { session with phase := .busy r, env := e }

/-- A faulted block. -/
def dead : State :=
  { fresh with phase := .halted, fault := 5#3, faultInfo := some (.word 0x0500#16), requests := [.command ⟨0x0200#16, []⟩] }

/-- Answers for RX-level and the receive FIFO. -/
def rx (levels fifo : List Byte) : Env := { Env.reset with rxLevels := levels, fifo := fifo }

/-- Answers for TX-level and line-status. -/
def tx (levels status : List Byte) : Env := { Env.reset with txLevels := levels, lineStatus := status }

/-- The state `n` steps of a command lead to. -/
def after (i : Instr) (n : Nat) (s : State) : Option State :=
  match execN i n s with
  | .next t => some t
  | .fault _ => none
  | .refused _ => none

/-- The state one step leads to. -/
def next (s : State) : Option State :=
  match step s with
  | .next t => some t
  | .fault _ => none
  | .refused _ => none

/-- The invariant of a block whose buffer is empty, but for its phase. -/
theorem inv_session (s : State) (hc : s.cfg = small) (hb : s.buf = []) (hd : s.bufDefined = 0)
    (hp : s.pending.toNat ≤ 4) (h : PhaseOk s s.phase) : s.Inv :=
  ⟨hc ▸ small_legal, by rw [hc]; exact hp, by rw [hb]; rfl, by rw [hb]; rfl, by rw [hd]; exact Nat.zero_le _,
    by rw [hd]; exact fun i hi => absurd hi (Nat.not_lt_zero i), h⟩

theorem filled_zero (s : State) : Filled s 0 := fun i hi => absurd hi (Nat.not_lt_zero i)

/-! ## WellFormed and the decoder -/

/-- R87: a length above the capacity is ill-formed, whatever the payload; the capacity itself is not. -/
theorem test_wellformed_length :
    (Instr.send 137#8 (List.replicate 137 0#8)).wellFormed 136 = false ∧
    (Instr.send 136#8 (List.replicate 136 0#8)).wellFormed 136 = true := by
  simp [Instr.wellFormed, Instr.lengthInRange, Instr.payloadMatches]

/-- R88: a payload of another length than `len` is ill-formed. -/
theorem test_wellformed_payload :
    (Instr.send 3#8 [1#8, 2#8]).wellFormed 136 = false ∧ (Instr.send 3#8 [1#8, 2#8, 3#8]).wellFormed 136 = true := by
  decide

/-- R77, R79: INIT is opcode 0000_0001 over a zero length field. -/
theorem test_decode_init : decode 136 ⟨0b0000000100000000#16, []⟩ = .ok .init := by rfl

/-- R77, R79: BEGIN is opcode 0000_0010. -/
theorem test_decode_begin : decode 136 ⟨0b0000001000000000#16, []⟩ = .ok .beginSession := by rfl

/-- R77, R79: END is opcode 0000_0011. -/
theorem test_decode_end : decode 136 ⟨0b0000001100000000#16, []⟩ = .ok .endSession := by rfl

/-- R77, R79, R82: SEND is opcode 0000_0100 with its length below, then the payload in order. -/
theorem test_decode_send :
    decode 136 ⟨0b0000010000000011#16, [0x01#8, 0x02#8, 0x03#8]⟩ = .ok (.send 3#8 [0x01#8, 0x02#8, 0x03#8]) := by rfl

/-- R77, R79: RECV is opcode 0000_0101. -/
theorem test_decode_recv : decode 136 ⟨0b0000010100000000#16, []⟩ = .ok .recv := by rfl

/-- Vectors F1 to F8 of 95_test_vectors.md, F7 and F6 with no payload bytes (the length is checked first, R139). -/
theorem test_decode_faults :
    decode 136 ⟨0x0000#16, []⟩ = .error .illegalOpcode ∧ decode 136 ⟨0x0600#16, []⟩ = .error .illegalOpcode ∧
    decode 136 ⟨0xFF00#16, []⟩ = .error .illegalOpcode ∧ decode 136 ⟨0x0101#16, []⟩ = .error .reservedOperand ∧
    decode 136 ⟨0x0589#16, []⟩ = .error .reservedOperand ∧ decode 136 ⟨0x0489#16, []⟩ = .error .lengthRange ∧
    decode 136 ⟨0x04FF#16, []⟩ = .error .lengthRange ∧
    decode 136 ⟨0x0403#16, [0x01#8, 0x02#8]⟩ = .error .payloadCount := ⟨rfl, rfl, rfl, rfl, rfl, rfl, rfl, rfl⟩

/-- The table's numbering: bits 15..0 are the word, the payload follows from bit 16, first byte lowest (log 9). -/
theorem test_table_word :
    decodeTableWord 16 0x0100 = some .init ∧ decodeTableWord 40 0x0302010403 = some (.send 3#8 [0x01#8, 0x02#8, 0x03#8]) ∧
    decodeTableWord 16 0x0600 = none := ⟨rfl, rfl, rfl⟩

/-- `withFetchWord` makes the next step take the command, also from a halted block. -/
theorem test_fetch_word :
    (next (fresh.withFetchWord 16 0x0300)).map (·.phase) = some (.busy (.endSession .fifo)) ∧
    (next (dead.withFetchWord 16 0x0300)).map (·.phase) = some (.busy (.endSession .fifo)) := ⟨rfl, rfl⟩

/-! ## One step of each command -/

/-- Vector V1 of 95_test_vectors.md: INIT's first write is `WR 0x78 EFCR_BOTH_DISABLE`. -/
theorem test_init_first_write :
    (after .init 2 fresh).map (·.trace) = some [.wr 0x78#8 0x06#8] := by decide

/-- R106, R102: DIVPROG's third write is the high divisor byte, with a divisor that has one. -/
theorem test_init_divisor_high :
    (after .init 1 { fresh with
      cfg := { candidate with divisor := 0x1234#16 }
      phase := .busy (.init (.bringup (.divprog .first .high))) }).map (·.trace) = some [.wr 0x08#8 0x12#8] := by decide

/-- Vector T4: BEGIN drops a cached count. -/
theorem test_begin_discards :
    (after .beginSession 5 { fresh with initialized := true, inSession := true, pending := 7#8 }).map
      (fun t => (t.pending, t.inSession, t.trace)) =
    some (0#8, true, [.wr 0x08#8 0x00#8, .wr 0x58#8 0x00#8, .wr 0x10#8 0x07#8]) := by decide

/-- R113: BEGIN runs bring-up while INITIALIZED is 0. -/
theorem test_begin_bringup :
    (after .beginSession 2 fresh).map (·.trace) = some [.wr 0x78#8 0x06#8] := by decide

/-- Vector T4b: END's three writes; PENDING stays. -/
theorem test_end :
    (after .endSession 5 { fresh with inSession := true, pending := 3#8 }).map
      (fun t => (t.pending, t.inSession, t.trace)) =
    some (3#8, false, [.wr 0x10#8 0x06#8, .wr 0x08#8 0x10#8, .wr 0x58#8 0x01#8]) := by decide

/-- Vector T4c: END from reset brings nothing up and completes. -/
theorem test_end_from_reset :
    (after .endSession 5 fresh).map (fun t => (t.initialized, t.completions)) = some (false, [.done]) := by decide

/-- Vector T6's first two events: a SEND of no bytes still writes EFCR and issues an empty burst. -/
theorem test_send_empty :
    (after (.send 0#8 []) 3 { fresh with inSession := true }).map (·.trace) =
    some [.wr 0x78#8 0x02#8, .wb 0x00#8 []] := by decide

/-- Vector T5d's second burst (levels 40 then 64): the last chunk is what remains, not the level. -/
theorem test_send_last_chunk :
    (after (.send 5#8 [1#8, 2#8, 3#8, 4#8, 5#8]) 2
      { running (.send 5#8 [1#8, 2#8, 3#8, 4#8, 5#8] (.queue .poll)) (tx [64#8] []) with
        work := { Work.reset with offset := 2#16, remaining := 3#16 } }).map (·.trace) =
    some [.rd 0x40#8 64#8, .wb 0x00#8 [3#8, 4#8, 5#8]] := by decide

/-- Vector T12: RECV delivers the cached count with no event. -/
theorem test_recv_cached :
    (after .recv 2 { fresh with inSession := true, pending := 2#8 }).map
      (fun t => (t.completions, t.pending, t.trace)) = some ([.count 2#8], 0#8, []) := by decide

/-- R126(e), vector T11 in small: a level above the free space reads only the free space. -/
theorem test_recv_clamp :
    (after .recv 1 { running (.recv (.listen .reread)) (rx [200#8] []) with
      work := { Work.reset with total := 3#16 } }).map (fun t => (t.work.n, t.work.level)) =
    some (1#16, 200#16) := by decide

/-- Vector F13: a buffer read past the capacity. -/
theorem test_buffer_index :
    (next { fresh with requests := [.bufRead 130 7] }).map (fun t => (t.fault, t.faultInfo)) =
    some (6#3, some (.span 130 7)) := by decide

/-- Vector T14: `BUFRD 136, 0` is legal and returns nothing; a defined byte is the stored one. -/
theorem test_buffer_read :
    (next { fresh with requests := [.bufRead 136 0] }).map (·.bufReads) = some [[]] ∧
    (next { fresh with
      requests := [.bufRead 0 2], buf := [(0, 0xAA#8), (1, 0xBB#8)], bufDefined := 2 }).map (·.bufReads) =
    some [[0xAA#8, 0xBB#8]] := by decide

/-! ## Witnesses: for each statement with hypotheses, a state and operands that meet them together -/

/-- END at the port of a block in IDLE. -/
def ending : State := { session with requests := [.command ⟨0x0300#16, []⟩] }

/-- END before its first write, and after it. -/
def endFirst : State := running (.endSession .fifo) Env.reset
def endSecond : State := (endFirst.writeByte .fcr fcrResetDisable).goTo (.endSession .sleepOn)

/-- RECV before the store of a burst that fills the buffer. -/
def storing : State :=
  { running (.recv (.listen .store)) Env.reset with
    buf := [(0, 1#8), (1, 2#8)], work := { Work.reset with total := 2#16, n := 2#16, bs := [3#8, 4#8] } }

/-- The same with a burst of no byte: the count stays below the capacity. -/
def storingNothing : State := { storing with work := { storing.work with n := 0#16, bs := [] } }

theorem filled_storing (s : State) (h : s.buf = [(0, 1#8), (1, 2#8)]) : Filled s 2 := by
  intro i hi
  rw [h]
  match i, hi with
  | 0, _ => simp [Memory.get]
  | 1, _ => simp [Memory.get]

theorem inv_ending : ending.Inv := inv_session _ rfl rfl rfl (by decide) ⟨rfl, rfl⟩
theorem inv_endFirst : endFirst.Inv := inv_session _ rfl rfl rfl (by decide) ⟨rfl, rfl, trivial⟩

theorem inv_storing : storing.Inv :=
  ⟨small_legal, by decide, by decide, by decide, by decide, filled_zero _,
    ⟨rfl, rfl, rfl, rfl, by decide, by decide, by decide, filled_storing _ rfl⟩⟩

theorem inv_storingNothing : storingNothing.Inv :=
  ⟨small_legal, by decide, by decide, by decide, by decide, filled_zero _,
    ⟨rfl, rfl, rfl, rfl, by decide, by decide, by decide, filled_storing _ rfl⟩⟩

/-- Both halves of the round trip, SEND at the largest length of a block of capacity 4. -/
theorem witness_DecodeAndEncodeAgree :
    (Instr.send 4#8 [1#8, 2#8, 3#8, 4#8]).wellFormed 4 = true ∧
    decode 4 ⟨0x0404#16, [1#8, 2#8, 3#8, 4#8]⟩ = .ok (.send 4#8 [1#8, 2#8, 3#8, 4#8]) ∧
    opField 0x0404#16 = sendOpcode := ⟨by decide, rfl, by decide⟩

/-- Each branch at the values where two of them meet, at capacity 4. -/
theorem witness_EveryWordDecodesOrIsRejectedByItsRule :
    decode 4 ⟨0x00FF#16, []⟩ = .error .illegalOpcode ∧ decode 4 ⟨0x0100#16, [1#8]⟩ = .ok .init ∧
    decode 4 ⟨0x0500#16, []⟩ = .ok .recv ∧ decode 4 ⟨0x0600#16, []⟩ = .error .illegalOpcode ∧
    decode 4 ⟨0x0301#16, []⟩ = .error .reservedOperand ∧ decode 4 ⟨0x0405#16, []⟩ = .error .lengthRange ∧
    decode 4 ⟨0x0404#16, []⟩ = .error .payloadCount ∧ decode 4 ⟨0x0400#16, []⟩ = .ok (.send 0#8 []) :=
  ⟨rfl, rfl, rfl, rfl, rfl, rfl, rfl, rfl⟩

/-- A command at the port of a block. -/
def given (s : State) (w : Word) (payload : List Byte) : State := { s with requests := [.command ⟨w, payload⟩] }

/-- Each clause at a boundary of its range, at capacity 4: opcodes 0 and 6, a length of 1, a length of 5, a payload one short,
a full SEND and a RECV out of session, and a buffer read one past the end. -/
theorem witness_FaultsFollowTheCheckOrder :
    (given session 0x00FF#16 []).phase = .idle ∧
    (given session 0x00FF#16 []).requests = .command ⟨0x00FF#16, []⟩ :: [] ∧
    ((0x00FF#16).toNat / 256 < 1 ∧ 5 < (0x0600#16).toNat / 256) ∧
    ((0x0501#16).toNat / 256 = 5 ∧ (0x0501#16).toNat % 256 ≠ 0) ∧
    ((0x0405#16).toNat / 256 = 4 ∧ session.cfg.rxCapacity < (0x0405#16).toNat % 256) ∧
    ((0x0404#16).toNat % 256 ≤ session.cfg.rxCapacity ∧ [1#8, 2#8, 3#8].length ≠ (0x0404#16).toNat % 256) ∧
    [1#8, 2#8, 3#8, 4#8].length = (0x0404#16).toNat % 256 ∧
    ((0x0500#16).toNat / 256 = 5 ∧ (0x0500#16).toNat % 256 = 0 ∧ fresh.inSession = false) ∧
    ({ session with requests := [.bufRead 1 4] } : State).requests = .bufRead 1 4 :: [] ∧
    session.cfg.rxCapacity < 1 + 4 := by decide

/-- The clause of code 7, met by a state no run reaches. -/
theorem witness_FaultsFollowTheCheckOrder_reserved :
    step { dead with fault := 7#3 } = .next { dead with fault := 7#3 } ∧
    ({ dead with fault := 7#3 } : State).fault = 7#3 := ⟨rfl, rfl⟩

/-- The same inputs give the codes of R138. -/
theorem test_fault_codes :
    [given session 0x00FF#16 [], given session 0x0600#16 [], given session 0x0501#16 [], given session 0x0405#16 [],
      given session 0x0404#16 [1#8, 2#8, 3#8],
      given { session with inSession := false } 0x0404#16 [1#8, 2#8, 3#8, 4#8],
      given { session with inSession := false } 0x0500#16 [],
      { session with requests := [.bufRead 1 4] }].map (fun s => (next s).map (·.fault)) =
    [some 1#3, some 1#3, some 2#3, some 3#3, some 4#3, some 5#3, some 5#3, some 6#3] := by decide

theorem witness_OutsideSessionSendAndRecvFault : fresh.phase = .idle ∧ fresh.inSession = false := ⟨rfl, rfl⟩

theorem witness_NothingLeavesHalted : dead.phase = .halted := rfl

/-- The port clause with END, and a running block for each of the five others. -/
theorem witness_StepRunsTheDecodedCommand :
    ending.phase = .idle ∧ ending.requests = .command ⟨0x0300#16, []⟩ :: [] ∧
    decode ending.cfg.rxCapacity ⟨0x0300#16, []⟩ = .ok .endSession ∧
    (running (.init .finish) Env.reset).phase = .busy (.init .finish) ∧
    (running (.beginSession .pins) Env.reset).phase = .busy (.beginSession .pins) ∧
    endFirst.phase = .busy (.endSession .fifo) ∧
    (running (.send 0#8 [] .drain) Env.reset).phase = .busy (.send 0#8 [] .drain) ∧
    storing.phase = .busy (.recv (.listen .store)) := ⟨rfl, rfl, rfl, rfl, rfl, rfl, rfl, rfl⟩

theorem witness_PortsActOnlyInIdle :
    (dead.phase ≠ .idle ∧ step dead = .next dead) ∧ endFirst.phase ≠ .idle ∧ step endFirst = .next endSecond :=
  ⟨⟨by decide, rfl⟩, by decide, rfl⟩

/-- The four clauses: the last range that fits (`2 + 2 = 4`), the first that does not, a busy block and a halted one. -/
theorem witness_BufferReadPort :
    (let s : State := { session with requests := [.bufRead 2 2] };
      s.requests = .bufRead 2 2 :: [] ∧ s.phase = .idle ∧ 2 + 2 ≤ s.cfg.rxCapacity) ∧
    (let s : State := { session with requests := [.bufRead 2 3] };
      s.requests = .bufRead 2 3 :: [] ∧ s.phase = .idle ∧ s.cfg.rxCapacity < 2 + 3) ∧
    (let s : State := { endFirst with requests := [.bufRead 0 1] };
      s.requests = .bufRead 0 1 :: [] ∧ s.phase = .busy (.endSession .fifo) ∧
        step s = .next { endSecond with requests := [.bufRead 0 1] }) ∧
    (let s : State := { dead with requests := [.bufRead 0 1] };
      s.requests = .bufRead 0 1 :: [] ∧ s.phase = .halted) := by
  refine ⟨⟨rfl, rfl, by decide⟩, ⟨rfl, rfl, by decide⟩, ⟨rfl, rfl, rfl⟩, rfl, rfl⟩

theorem witness_IdleBlockWaitsForACommand : session.phase = .idle ∧ session.requests = [] := ⟨rfl, rfl⟩

/-- A receive burst that fills the buffer, stored from a state that meets the invariant. -/
theorem witness_EveryStepKeepsTheInvariant :
    storing.Inv ∧ (next storing).map (·.phase) = some (.busy (.recv .finish)) ∧
    (next storing).map (·.buf) = some [(0, 1#8), (1, 2#8), (2, 3#8), (3, 4#8)] :=
  ⟨inv_storing, by decide, by decide⟩

theorem witness_EveryStepAnswersANextState : storing.Inv := inv_storing

/-- A step that faults, out of a state that meets the invariant. -/
theorem witness_StatusRegistersObeyTheirInvariants :
    let s : State := { session with requests := [.command ⟨0x0000#16, []⟩] }
    s.Inv ∧ (next s).map (·.fault) = some 1#3 :=
  ⟨inv_session _ rfl rfl rfl (by decide) ⟨rfl, rfl⟩, by decide⟩

theorem witness_OneStepIssuesAtMostOneBusEvent : step endFirst = .next endSecond := rfl

theorem witness_BusAccessesStayWithinTheRegisterMap :
    endFirst.Inv ∧ step endFirst = .next endSecond ∧ endSecond.trace = endFirst.trace ++ [.wr 0x10#8 0x06#8] :=
  ⟨inv_endFirst, rfl, rfl⟩

/-- A block about to open the window, and one inside it. -/
theorem witness_DivisorWindowHoldsNoOtherAccess :
    small.lcrDlab ≠ small.lcr8n1 ∧
    DlabTracks (running (.init (.bringup (.divprog .first .dlabOn))) Env.reset) ∧
    (next (running (.init (.bringup (.divprog .first .dlabOn))) Env.reset)).map (·.trace) =
      some [.wr 0x18#8 0x83#8] ∧
    DlabTracks { running (.init (.bringup (.divprog .first .high))) Env.reset with
      trace := [.wr 0x18#8 0x83#8, .wr 0x00#8 0x0A#8] } ∧
    (next { running (.init (.bringup (.divprog .first .high))) Env.reset with
      trace := [.wr 0x18#8 0x83#8, .wr 0x00#8 0x0A#8] }).map (·.trace) =
      some [.wr 0x18#8 0x83#8, .wr 0x00#8 0x0A#8, .wr 0x08#8 0x00#8] :=
  ⟨by decide, by unfold DlabTracks; decide, by decide, by unfold DlabTracks; decide, by decide⟩

/-- The three writers of PENDING, each changing it. -/
theorem witness_PendingHasThreeWriters :
    (next { running (.send 0#8 [] .finish) Env.reset with
      work := { Work.reset with count := 2#16 } }).map (·.pending) = some 2#8 ∧
    (next { running (.beginSession .finish) Env.reset with pending := 4#8 }).map (·.pending) = some 0#8 ∧
    (next { running (.recv .cached) Env.reset with pending := 4#8 }).map (·.pending) = some 0#8 := by decide

/-- A step that writes no byte, and one that does. -/
theorem witness_OnlyRxwaitWritesTheBuffer :
    step endFirst = .next endSecond ∧ (next storing).map (·.buf.length) = some 4 := ⟨rfl, by decide⟩

/-- Two blocks that differ in a working register, four steps into an END. -/
theorem witness_WorkingRegistersAreNeverReadBeforeWritten :
    let t : State := { ending with work := { Work.reset with count := 9#16 } }
    ending.phase = .idle ∧ SameButWork ending t ∧
      (∃ s', stepN 4 ending = .next s') ∧ ∃ t', stepN 4 t = .next t' :=
  ⟨rfl, rfl, ⟨_, rfl⟩, ⟨_, rfl⟩⟩

theorem witness_IdleBlockTakesEveryCommand : session.phase = .idle ∧ session.inSession = true := ⟨rfl, rfl⟩

theorem witness_EveryCommandEndsWithItsOwnEffect :
    (running (.init .finish) Env.reset).phase = .busy (.init .finish) ∧
    (running (.beginSession .finish) Env.reset).phase = .busy (.beginSession .finish) ∧
    (running (.endSession .finish) Env.reset).phase = .busy (.endSession .finish) ∧
    (running (.send 0#8 [] .finish) Env.reset).phase = .busy (.send 0#8 [] .finish) ∧
    (running (.recv .cached) Env.reset).phase = .busy (.recv .cached) ∧
    (running (.recv .finish) Env.reset).phase = .busy (.recv .finish) := ⟨rfl, rfl, rfl, rfl, rfl, rfl⟩

theorem witness_InitRunsBringupToItsEnd : fresh.phase = .idle ∧ fresh.cfg.Legal := ⟨rfl, candidate_legal⟩

/-- The five clauses, in INIT and in BEGIN; the last at FLUSH_MAX_ITER = 1 and, where no FLUSH is left to do, 0. -/
theorem witness_SettleDelaysStandWhereBringupHasThem :
    Bringer .init (fun p => .init (.bringup p)) ∧ Bringer .beginSession (fun p => .beginSession (.bringup p)) ∧
    (running (.init (.bringup .pins)) Env.reset).phase = .busy (.init (.bringup .pins)) ∧
    (running (.init (.bringup .settleFirst)) Env.reset).phase = .busy (.init (.bringup .settleFirst)) ∧
    (running (.beginSession (.bringup (.rearm .first .receiver))) Env.reset).phase =
      .busy (.beginSession (.bringup (.rearm .first .receiver))) ∧
    (running (.beginSession (.bringup .settleSecond)) Env.reset).phase =
      .busy (.beginSession (.bringup .settleSecond)) ∧
    (running (.init (.bringup (.rearm .second .receiver))) Env.reset).phase =
      .busy (.init (.bringup (.rearm .second .receiver))) ∧ 0 < small.flushMaxIter ∧
    (after .init 1 { running (.init (.bringup (.rearm .second .receiver))) Env.reset with
      cfg := { small with flushMaxIter := 0 } }).map (·.phase) = some (.busy (.init .finish)) :=
  ⟨.init, .beginSession, rfl, rfl, rfl, rfl, rfl, by decide, by decide⟩

theorem witness_BringupAlwaysTerminates : fresh.phase = .idle ∧ fresh.cfg.Legal := ⟨rfl, candidate_legal⟩

/-- Both clauses: before any bring-up and after one. -/
theorem witness_BeginOpensASession :
    (session.phase = .idle ∧ session.cfg.Legal ∧ session.initialized = true) ∧
    fresh.phase = .idle ∧ fresh.cfg.Legal ∧ fresh.initialized = false :=
  ⟨⟨rfl, small_legal, rfl⟩, rfl, candidate_legal, rfl⟩

theorem witness_EndClosesTheSession : fresh.phase = .idle := rfl

/-- The five clauses; the longest single burst and the shortest chunked payload. -/
theorem witness_TransmitQueueFollowsItsPseudocode :
    ((running (.send 2#8 [1#8, 2#8] .txOn) Env.reset).phase = .busy (.send 2#8 [1#8, 2#8] .txOn) ∧
      (2#8).toNat ≤ small.txSingleBurstMax) ∧
    ((running (.send 3#8 [1#8, 2#8, 3#8] .txOn) Env.reset).phase = .busy (.send 3#8 [1#8, 2#8, 3#8] .txOn) ∧
      small.txSingleBurstMax < (3#8).toNat) ∧
    (running (.send 0#8 [] (.queue .single)) Env.reset).phase = .busy (.send 0#8 [] (.queue .single)) ∧
    (let s : State := { running (.send 3#8 [1#8, 2#8, 3#8] (.queue .poll)) (tx [0#8] []) with
        work := { Work.reset with remaining := 3#16 } };
      s.phase = .busy (.send 3#8 [1#8, 2#8, 3#8] (.queue .poll)) ∧ s.work.remaining ≠ 0#16) ∧
    (running (.send 3#8 [1#8, 2#8, 3#8] (.queue .burst)) Env.reset).phase =
      .busy (.send 3#8 [1#8, 2#8, 3#8] (.queue .burst)) :=
  ⟨⟨rfl, by decide⟩, ⟨rfl, by decide⟩, rfl, ⟨rfl, by decide⟩, rfl⟩

/-- SEND of three bytes waiting for room, none queued yet. -/
def polling (levels status : List Byte) : State :=
  { running (.send 3#8 [1#8, 2#8, 3#8] (.queue .poll)) (tx levels status) with
    work := { Work.reset with remaining := 3#16 } }

theorem inv_polling (levels status : List Byte) : (polling levels status).Inv :=
  inv_session _ rfl rfl rfl (show (0#8).toNat ≤ 4 by decide)
    ⟨rfl, rfl, rfl, rfl, show (0#16).toNat + (3#16).toNat = (3#8).toNat from rfl, show 1 ≤ (3#16).toNat by decide⟩

theorem witness_NoChunkBurstExceedsTheReportedLevel :
    (polling [2#8] []).Inv ∧
    (polling [2#8] []).phase = .busy (.send 3#8 [1#8, 2#8, 3#8] (.queue .poll)) ∧
    ∃ t u, exec (.send 3#8 [1#8, 2#8, 3#8]) (polling [2#8] []) = .next t ∧
      t.phase = .busy (.send 3#8 [1#8, 2#8, 3#8] (.queue .burst)) ∧
      exec (.send 3#8 [1#8, 2#8, 3#8]) t = .next u :=
  ⟨inv_polling _ _, rfl, _, _, rfl, rfl, rfl⟩

/-- SEND of three bytes before its first write; TX levels 2 and 9 to come. -/
def sending : State := running (.send 3#8 [1#8, 2#8, 3#8] .txOn) (tx [2#8, 9#8] [])

theorem inv_sending : sending.Inv :=
  inv_session _ rfl rfl rfl (by decide) ⟨rfl, rfl, rfl, by decide, trivial⟩

theorem witness_EveryPayloadByteIsQueuedOnceInOrder :
    sending.Inv ∧ sending.phase = .busy (.send 3#8 [1#8, 2#8, 3#8] .txOn) ∧
    ∃ t, execN (.send 3#8 [1#8, 2#8, 3#8]) 5 sending = .next t ∧ t.completions = sending.completions ∧
      t.phase = .busy (.send 3#8 [1#8, 2#8, 3#8] .drain) ∧
      burstBytes (newEvents sending t) = [1#8, 2#8, 3#8] :=
  ⟨inv_sending, rfl, _, rfl, rfl, rfl, rfl⟩

theorem witness_DrainEndsWhenTheTransmitterIsEmpty :
    (running (.send 0#8 [] .drain) (tx [] [0xBF#8])).phase = .busy (.send 0#8 [] .drain) := rfl

/-- Vector T7b's status, twice: every bit set but TX-empty. -/
theorem witness_StuckTransmitterHoldsSendForEver :
    let s := running (.send 0#8 [] .drain) (tx [] [0xBF#8, 0x00#8])
    s.phase = .busy (.send 0#8 [] .drain) ∧ s.env.lineStatus = [0xBF#8, 0x00#8] ++ [] ∧
      ∀ v ∈ [0xBF#8, 0x00#8], v &&& s.cfg.lsrTxEmptyMask = 0#8 := ⟨rfl, rfl, by decide⟩

theorem witness_FullTransmitFifoHoldsSendForEver :
    (polling [0#8, 0#8] []).phase = .busy (.send 3#8 [1#8, 2#8, 3#8] (.queue .poll)) ∧
    (polling [0#8, 0#8] []).work.remaining ≠ 0#16 ∧
    (polling [0#8, 0#8] []).env.txLevels = List.replicate 2 0#8 ++ [] := ⟨rfl, by decide, rfl⟩

theorem witness_ChunkedTransmitEndsWhenTheFifoHasRoom :
    (polling [1#8, 1#8, 1#8] []).Inv ∧
    (polling [1#8, 1#8, 1#8] []).phase = .busy (.send 3#8 [1#8, 2#8, 3#8] (.queue .poll)) ∧
    (polling [1#8, 1#8, 1#8] []).env.txLevels = [1#8, 1#8, 1#8] ++ [] ∧
    (∀ v ∈ [1#8, 1#8, 1#8], v ≠ 0#8) ∧
    (polling [1#8, 1#8, 1#8] []).work.remaining.toNat ≤ [1#8, 1#8, 1#8].length :=
  ⟨inv_polling _ _, rfl, rfl, by decide, by decide⟩

/-- A session with answers for a whole SEND to a silent far end. -/
def silentSession (levels status : List Byte) : State :=
  { session with env := { Env.reset with
      txLevels := levels, lineStatus := status, rxLevels := [0#8, 0#8, 0#8] } }

theorem witness_SendWithoutReplyCompletes :
    let s := silentSession [] [0xBF#8, 0x40#8]
    s.phase = .idle ∧ s.inSession = true ∧ s.cfg.Legal ∧
    (Instr.send 2#8 [7#8, 8#8]).wellFormed s.cfg.rxCapacity = true ∧ (2#8).toNat ≤ s.cfg.txSingleBurstMax ∧
    s.env.lineStatus = [0xBF#8] ++ 0x40#8 :: [] ∧ (∀ x ∈ [0xBF#8], x &&& s.cfg.lsrTxEmptyMask = 0#8) ∧
    0x40#8 &&& s.cfg.lsrTxEmptyMask ≠ 0#8 ∧
    s.env.rxLevels = List.replicate (s.cfg.rxLongWait + 1) 0#8 ++ [] :=
  ⟨rfl, rfl, small_legal, by decide, by decide, rfl, by decide, by decide, rfl⟩

theorem witness_SendWritesExtraFeaturesTwice :
    let s := running (.send 0#8 [] .txOn)
      { Env.reset with lineStatus := [0x40#8], rxLevels := [0#8, 0#8, 0#8] }
    s.phase = .busy (.send 0#8 [] .txOn) ∧
    ∃ t, execN (.send 0#8 []) 9 s = .next t ∧ t.completions = s.completions ∧
      t.phase = .busy (.send 0#8 [] .finish) ∧ writesTo 0x78#8 (newEvents s t) = [0x02#8, 0x04#8] :=
  ⟨rfl, _, rfl, rfl, rfl, rfl⟩

/-- A chunked payload of the block's whole capacity. -/
theorem witness_SendOfAnyLengthCompletes :
    let s := silentSession [1#8, 1#8, 1#8, 1#8] [0x40#8]
    s.phase = .idle ∧ s.inSession = true ∧ s.cfg.Legal ∧
    (Instr.send 4#8 [5#8, 6#8, 7#8, 8#8]).wellFormed s.cfg.rxCapacity = true ∧
    s.env.txLevels = [1#8, 1#8, 1#8, 1#8] ++ [] ∧ (∀ x ∈ [1#8, 1#8, 1#8, 1#8], x ≠ 0#8) ∧
    (4#8).toNat ≤ [1#8, 1#8, 1#8, 1#8].length ∧
    s.env.lineStatus = [] ++ 0x40#8 :: [] ∧ (∀ x ∈ ([] : List Byte), x &&& s.cfg.lsrTxEmptyMask = 0#8) ∧
    0x40#8 &&& s.cfg.lsrTxEmptyMask ≠ 0#8 ∧
    s.env.rxLevels = List.replicate (s.cfg.rxLongWait + 1) 0#8 ++ [] :=
  ⟨rfl, rfl, small_legal, by decide, rfl, by decide, by decide, rfl, by simp, by decide, rfl⟩

theorem witness_SendCachesTheReply :
    let s := running (.send 0#8 [] .rxOn) (rx [1#8, 3#8, 0#8, 0#8] [0xAA#8, 0xBB#8, 0xCC#8])
    s.Inv ∧ s.phase = .busy (.send 0#8 [] .rxOn) ∧ 1#8 ≠ 0#8 ∧ 3#8 ≠ 0#8 ∧ (3#8).toNat < s.cfg.rxCapacity ∧
    0 < s.cfg.rxLongWait ∧
    s.env.rxLevels = 1#8 :: 3#8 :: List.replicate (s.cfg.rxMaxWait + 1) 0#8 ++ [] ∧
    s.env.fifo = [0xAA#8, 0xBB#8, 0xCC#8] ++ [] ∧ [0xAA#8, 0xBB#8, 0xCC#8].length = (3#8).toNat :=
  ⟨inv_session _ rfl rfl rfl (by decide) ⟨rfl, rfl, rfl, by decide, trivial⟩, rfl, by decide, by decide, by decide,
    by decide, rfl, rfl, rfl⟩

theorem listener_recv : Listener .recv (fun p => .recv (.listen p)) (.recv .finish) := .recv

/-- The two entries of RXWAIT, and SEND as the one that runs it. -/
theorem witness_ReceiveLoopFollowsItsPseudocode_entries :
    (running (.recv (.rearm .receiver)) Env.reset).phase = .busy (.recv (.rearm .receiver)) ∧
    (running (.send 0#8 [] .rxOn) Env.reset).phase = .busy (.send 0#8 [] .rxOn) ∧
    Listener (.send 0#8 []) (fun p => .send 0#8 [] (.listen p)) (.send 0#8 [] .finish) ∧
    (running (.send 0#8 [] (.listen .poll)) (rx [5#8] [])).phase = .busy (.send 0#8 [] (.listen .poll)) :=
  ⟨rfl, rfl, .send 0#8 [], rfl⟩

/-- The five clauses, the store with a burst that fills the buffer and with one that does not; the poll's outcomes on both
sides of `iw = rb`. -/
theorem witness_ReceiveLoopFollowsItsPseudocode :
    (running (.recv (.listen .poll)) (rx [0#8] [])).phase = .busy (.recv (.listen .poll)) ∧
    (after .recv 1 { running (.recv (.listen .poll)) (rx [0#8] []) with
      work := { Work.reset with rb := 1#16 } }).map (·.phase) = some (.busy (.recv (.listen .pause))) ∧
    (after .recv 1 { running (.recv (.listen .poll)) (rx [0#8] []) with
      work := { Work.reset with rb := 1#16, iw := 1#16 } }).map (·.phase) = some (.busy (.recv .finish)) ∧
    (after .recv 1 { running (.recv (.listen .poll)) (rx [5#8] []) with
      work := { Work.reset with rb := 1#16 } }).map (·.phase) = some (.busy (.recv (.listen .reread))) ∧
    (running (.recv (.listen .pause)) Env.reset).phase = .busy (.recv (.listen .pause)) ∧
    (running (.recv (.listen .reread)) (rx [5#8] [])).phase = .busy (.recv (.listen .reread)) ∧
    (let s : State := { running (.recv (.listen .burst)) Env.reset with work := { Work.reset with n := 255#16 } };
      s.phase = .busy (.recv (.listen .burst)) ∧ s.work.n.toNat ≤ 255) ∧
    (storing.phase = .busy (.recv (.listen .store)) ∧ storing.Inv) ∧
    storingNothing.phase = .busy (.recv (.listen .store)) ∧ storingNothing.Inv :=
  ⟨rfl, by decide, by decide, by decide, rfl, rfl, ⟨rfl, by decide⟩, ⟨rfl, inv_storing⟩, rfl, inv_storingNothing⟩

/-- Vector T9: a budget of 0, and data waiting. -/
theorem witness_LastPollOfAWaitEndsTheReception :
    let s := running (.recv (.listen .poll)) (rx [9#8] [])
    s.phase = .busy (.recv (.listen .poll)) ∧ s.work.iw = s.work.rb := ⟨rfl, rfl⟩

/-- Vector T8: a budget of 3 and no data. -/
theorem witness_SilentWaitReadsOnceMoreThanItsBudget :
    let s : State := { running (.recv (.listen .poll)) (rx [0#8, 0#8, 0#8, 0#8] []) with
      work := { Work.reset with rb := 3#16 } }
    s.phase = .busy (.recv (.listen .poll)) ∧ s.work.iw = 0#16 ∧
    s.env.rxLevels = List.replicate (s.work.rb.toNat + 1) 0#8 ++ [] := ⟨rfl, rfl, rfl⟩

theorem witness_CachedCountIsDeliveredOnce :
    let s : State := { session with pending := 4#8 }
    s.phase = .idle ∧ s.inSession = true ∧ s.pending ≠ 0#8 := ⟨rfl, rfl, by decide⟩

theorem witness_FreshReceiveOfSilenceReturnsZero :
    let s : State := { session with env := rx [0#8, 0#8] [] }
    s.phase = .idle ∧ s.inSession = true ∧ s.pending = 0#8 ∧ s.cfg.Legal ∧
    s.env.rxLevels = List.replicate (s.cfg.rxMaxWait + 1) 0#8 ++ [] := ⟨rfl, rfl, rfl, small_legal, rfl⟩

theorem witness_FreshReceiveDeliversAMessage :
    let s : State := { session with env := rx [1#8, 3#8, 0#8, 0#8] [0x10#8, 0x20#8, 0x30#8] }
    s.Inv ∧ s.phase = .idle ∧ s.inSession = true ∧ s.pending = 0#8 ∧ 1#8 ≠ 0#8 ∧ 3#8 ≠ 0#8 ∧
    (3#8).toNat < s.cfg.rxCapacity ∧ 0 < s.cfg.rxMaxWait ∧
    s.env.rxLevels = 1#8 :: 3#8 :: List.replicate (s.cfg.rxMaxWait + 1) 0#8 ++ [] ∧
    s.env.fifo = [0x10#8, 0x20#8, 0x30#8] ++ [] ∧ [0x10#8, 0x20#8, 0x30#8].length = (3#8).toNat :=
  ⟨inv_session _ rfl rfl rfl (by decide) ⟨rfl, rfl⟩, rfl, rfl, rfl, by decide, by decide, by decide, by decide,
    rfl, rfl, rfl⟩

/-- A level of exactly the capacity. -/
theorem witness_FreshReceiveStopsAtTheCapacity :
    let s : State := { session with env := rx [4#8, 4#8] [1#8, 2#8, 3#8, 4#8] }
    s.Inv ∧ s.phase = .idle ∧ s.inSession = true ∧ s.pending = 0#8 ∧ 4#8 ≠ 0#8 ∧
    s.cfg.rxCapacity ≤ (4#8).toNat ∧ 0 < s.cfg.rxMaxWait ∧ s.env.rxLevels = 4#8 :: 4#8 :: [] ∧
    s.env.fifo = [1#8, 2#8, 3#8, 4#8] ++ [] ∧ [1#8, 2#8, 3#8, 4#8].length = s.cfg.rxCapacity :=
  ⟨inv_session _ rfl rfl rfl (by decide) ⟨rfl, rfl⟩, rfl, rfl, rfl, by decide, by decide, by decide, rfl, rfl, rfl⟩

/-- A cached count of the whole capacity. -/
theorem witness_ReceivedCountsStayWithinTheCapacity :
    let s : State := { running (.recv .cached) Env.reset with pending := 4#8 }
    s.Inv ∧ ∃ t, step s = .next t ∧ t.completions = s.completions ++ [.count 4#8] :=
  ⟨inv_session _ rfl rfl rfl (by decide) ⟨rfl, rfl, rfl, show 4#8 ≠ 0#8 by decide⟩, _, rfl, rfl⟩

/-- A wait with a budget of 0: it has no re-read to answer, so E-MONO holds of it. -/
theorem witness_ReceiveTerminatesUnderEMono :
    let s := running (.recv (.listen .poll)) (rx [9#8] [])
    s.Inv ∧ s.phase = .busy (.recv (.listen .poll)) ∧ s.work.iw = 0#16 ∧
    EMono .recv (fun p => .recv (.listen p)) s := by
  refine ⟨inv_session _ rfl rfl rfl (by decide) ⟨rfl, rfl, rfl, rfl, by decide, by decide, filled_zero _⟩, rfl, rfl, ?_⟩
  intro n t hn hc hp
  match n, hn with
  | 0, hn => cases hn; cases hp
  | 1, hn => cases hn; cases hp
  | n + 2, hn =>
    obtain ⟨l, hl⟩ := execN_recv_extends n hn
    rw [hl] at hc
    cases hc

/-- E-MONO with a re-read in it: a level of 1, read twice, then silence. -/
theorem witness_ReceiveTerminatesUnderEMono_with_data :
    let s : State := { running (.recv (.listen .poll)) (rx [1#8, 1#8, 0#8, 0#8] [0x5A#8]) with
      work := { Work.reset with rb := 1#16 } }
    s.Inv ∧ s.phase = .busy (.recv (.listen .poll)) ∧ s.work.iw = 0#16 ∧
    EMono .recv (fun p => .recv (.listen p)) s := by
  refine ⟨inv_session _ rfl rfl rfl (by decide) ⟨rfl, rfl, rfl, rfl, by decide, by decide, filled_zero _⟩, rfl, rfl, ?_⟩
  intro n t hn hc hp
  match n, hn with
  | 0, hn => cases hn; cases hp
  | 1, hn => cases hn; decide
  | 2, hn => cases hn; cases hp
  | 3, hn => cases hn; cases hp
  | 4, hn => cases hn; cases hp
  | 5, hn => cases hn; cases hp
  | 6, hn => cases hn; cases hp
  | 7, hn => cases hn; cases hp
  | n + 8, hn =>
    obtain ⟨l, hl⟩ := execN_recv_extends n hn
    rw [hl] at hc
    cases hc

/-- Two passes that receive nothing (vector T11d's levels, twice). -/
theorem witness_ZeroRereadsHoldReceptionForEver :
    let s : State := { running (.recv (.listen .poll)) (rx [5#8, 0#8, 5#8, 0#8] []) with
      work := { Work.reset with rb := 1#16 } }
    s.Inv ∧ s.phase = .busy (.recv (.listen .poll)) ∧ s.work.iw = 0#16 ∧ s.work.rb ≠ 0#16 ∧ 0 < s.cfg.rxMaxWait ∧
    5#8 ≠ 0#8 ∧ s.env.rxLevels = (List.replicate 2 [5#8, 0#8]).flatten ++ [] ∧
    (after .recv 8 s).map (fun t => (t.phase, t.work.total)) = some (.busy (.recv (.listen .poll)), 0#16) :=
  ⟨inv_session _ rfl rfl rfl (by decide) ⟨rfl, rfl, rfl, rfl, by decide, by decide, filled_zero _⟩, rfl, rfl,
    by decide, by decide, by decide, rfl, by decide⟩

theorem witness_InitFrame :
    ∃ t, exec .init (running (.init (.bringup (.flush .first .poll))) (rx [3#8] [])) = .next t := ⟨_, rfl⟩

theorem witness_BeginFrame :
    ∃ t, exec .beginSession (running (.beginSession .pins) Env.reset) = .next t := ⟨_, rfl⟩

theorem witness_EndFrame : exec .endSession endFirst = .next endSecond := rfl

/-- SEND's store of a reply, and a position that stores nothing. -/
theorem witness_SendFrame :
    (∃ t, exec (.send 0#8 []) { storing with phase := .busy (.send 0#8 [] (.listen .store)) } = .next t) ∧
    ∃ t, exec (.send 3#8 [1#8, 2#8, 3#8]) sending = .next t := ⟨⟨_, rfl⟩, _, rfl⟩

/-- RECV's store, and its cached path. -/
theorem witness_RecvFrame :
    (∃ t, exec .recv storing = .next t) ∧
    ∃ t, exec .recv { running (.recv .cached) Env.reset with pending := 4#8 } = .next t := ⟨⟨_, rfl⟩, _, rfl⟩

end Sys2Proof.Tests
end

section
/-! The parameters of the block that leaves reset (R11 to R19). -/

namespace Sys2Proof.Machine

/-- Reset takes every parameter from the one record of the source's values. -/
@[simp] theorem reset_cfg : State.reset.cfg = Config.source := rfl

/-- Settles O17: reset's parameters are `Config.source`, whose numeric fields are the values of R11 to R19. -/
theorem resetHasTheSourcesParameters : Obligations.ResetHasTheSourcesParameters := by
  unfold Obligations.ResetHasTheSourcesParameters
  rw [reset_cfg]
  exact ⟨rfl, rfl, rfl, rfl, rfl, rfl, rfl, rfl, rfl⟩

end Sys2Proof.Machine
end

section
/-! What one step of the block is, as equations of `step` and `exec` (10_state.md R32): one for each thing IDLE can find at
the ports, one for each phase, and `runningStep` for the command that BUSY holds. -/

namespace Sys2Proof.Machine

/-- The step of the command that BUSY holds, from its position (R31, R32). -/
def runningStep (r : Running) (s : State) : Host.Outcome State Fault Refusal :=
  match r with
  | .init p => .next (initStep p s)
  | .beginSession p => .next (beginStep p s)
  | .endSession p => .next (endStep p s)
  | .send len payload p => sendStep len payload p s
  | .recv p => recvStep p s

/-- A busy block runs its own command from its own position (R31, R75). -/
theorem exec_busy {s : State} {r : Running} (h : s.phase = .busy r) : exec r.instr s = runningStep r s := by
  cases r <;> simp [exec, execInit, execBegin, execEnd, execSend, execRecv, Running.instr, runningStep, h]

/-- Where an accepted command starts (R109, R113, R115, R118, R127). -/
def entry (i : Instr) (s : State) : Running :=
  match i with
  | .init => .init (.bringup .disable)
  | .beginSession => .beginSession (beginEntry s)
  | .endSession => .endSession .fifo
  | .send len payload => .send len payload .txOn
  | .recv => .recv (recvEntry s)

/-- The session check (R142): only SEND and RECV need a session. -/
def admitted (i : Instr) (s : State) : Bool :=
  match i with
  | .init | .beginSession | .endSession => true
  | .send _ _ | .recv => s.inSession

/-- IDLE accepts a command that passes the session check, and faults on any other (R32, R142). -/
theorem exec_idle {s : State} (i : Instr) (h : s.phase = .idle) :
    exec i s = .next (if admitted i s then s.goTo (entry i s) else s.raiseFault .outsideSession (.word i.word)) := by
  cases i <;> simp only [exec, execInit, execBegin, execEnd, execSend, execRecv, admitted, entry, h, if_true]
  case send => exact (apply_ite Host.Outcome.next _ _ _).symm
  case recv => exact (apply_ite Host.Outcome.next _ _ _).symm

theorem step_idle_wait {s : State} (hp : s.phase = .idle) (hq : s.requests = []) : step s = .next s := by
  simp [step, fetch, hp, hq]

theorem step_idle_command {s : State} {c : Command} {rest : List Request} {i : Instr} (hp : s.phase = .idle)
    (hq : s.requests = .command c :: rest) (hd : decode s.cfg.rxCapacity c = .ok i) :
    step s = exec i { s with requests := rest } := by
  simp [step, fetch, takeRequest, hp, hq, hd]

theorem step_idle_reject {s : State} {c : Command} {rest : List Request} {e : Reject} (hp : s.phase = .idle)
    (hq : s.requests = .command c :: rest) (hd : decode s.cfg.rxCapacity c = .error e) :
    step s = .next ({ s with requests := rest }.raiseFault (rejectCode e) (rejectInfo c e)) := by
  simp [step, fetch, takeRequest, hp, hq, hd]

theorem step_idle_bufRead {s : State} {i n : Nat} {rest : List Request} (hp : s.phase = .idle)
    (hq : s.requests = .bufRead i n :: rest) : step s = .next ({ s with requests := rest }.bufRead i n) := by
  simp [step, fetch, takeRequest, hp, hq]

theorem step_busy_exec {s : State} {r : Running} (h : s.phase = .busy r) : step s = exec r.instr s := by
  simp [step, fetch, h]

theorem step_busy {s : State} {r : Running} (h : s.phase = .busy r) : step s = runningStep r s :=
  (step_busy_exec h).trans (exec_busy h)

theorem step_halted {s : State} (h : s.phase = .halted) : step s = .next s := by
  simp [step, fetch, h]

/-- A buffer read answers and may draw free values, or it faults (R129, R143). -/
theorem bufRead_cases (s : State) (i n : Nat) :
    (∃ bytes d, s.bufRead i n = { s with bufReads := s.bufReads ++ [bytes], draws := d }) ∨
    s.bufRead i n = s.raiseFault .bufferIndex (.span i n) := by
  obtain ⟨-, d, hd⟩ := memRead_spec n i s
  unfold State.bufRead
  split
  · exact .inl ⟨(State.memRead i n s).1, d, by simp only [hd]⟩
  · exact .inr rfl

/-- What a step in IDLE makes of a state whose oldest request it has taken off the port (R32, R129, R140). -/
inductive Taken (s : State) : State → Prop where
  | accepted (c : Command) (i : Instr) : decode s.cfg.rxCapacity c = .ok i → admitted i s = true →
      Taken s (s.goTo (entry i s))
  | faulted (code : FaultCode) (info : FaultInfo) : Taken s (s.raiseFault code info)
  | answered (bytes : List Byte) (d : Nat) : Taken s { s with bufReads := s.bufReads ++ [bytes], draws := d }

/-- Everything a step can do in IDLE with a request at the ports. -/
theorem step_idle_taken {s t : State} {q : Request} {rest : List Request} (hp : s.phase = .idle)
    (hq : s.requests = q :: rest) (h : step s = .next t) : Taken { s with requests := rest } t := by
  cases q with
  | bufRead i n =>
    rw [step_idle_bufRead hp hq] at h
    cases h
    rcases bufRead_cases { s with requests := rest } i n with ⟨bytes, d, e⟩ | e <;> rw [e]
    · exact .answered bytes d
    · exact .faulted _ _
  | command c =>
    cases hd : decode s.cfg.rxCapacity c with
    | error e => rw [step_idle_reject hp hq hd] at h; cases h; exact .faulted _ _
    | ok i =>
      rw [step_idle_command hp hq hd, exec_idle i (s := { s with requests := rest }) hp] at h
      cases h
      split
      · exact .accepted c i hd ‹_›
      · exact .faulted _ _

/-- The three phases (R31). -/
theorem phase_cases (s : State) : s.phase = .idle ∨ (∃ r, s.phase = .busy r) ∨ s.phase = .halted := by
  cases s.phase <;> simp

/-- Everything a step can do: wait, act on the oldest request in IDLE, or go on with the running command. -/
theorem step_cases {s t : State} (h : step s = .next t) :
    t = s ∨ (s.phase = .idle ∧ ∃ rest, Taken { s with requests := rest } t) ∨
    ∃ r, s.phase = .busy r ∧ runningStep r s = .next t := by
  obtain hp | ⟨r, hp⟩ | hp := phase_cases s
  · cases hq : s.requests with
    | nil => rw [step_idle_wait hp hq] at h; cases h; exact .inl rfl
    | cons q rest => exact .inr (.inl ⟨hp, rest, step_idle_taken hp hq h⟩)
  · exact .inr (.inr ⟨r, hp, step_busy hp ▸ h⟩)
  · rw [step_halted hp] at h; cases h; exact .inl rfl

/-- Settles O8: the request's command, or the running one, is what `exec` is given. -/
theorem stepRunsTheDecodedCommand : Obligations.StepRunsTheDecodedCommand := by
  unfold Obligations.StepRunsTheDecodedCommand
  exact ⟨fun _ _ _ _ => step_idle_command, fun _ _ => step_busy_exec, fun _ _ => step_busy_exec,
    fun _ _ => step_busy_exec, fun _ _ _ _ => step_busy_exec, fun _ _ => step_busy_exec⟩

/-- Settles O11, by induction on the number of steps. -/
theorem idleBlockWaitsForACommand : Obligations.IdleBlockWaitsForACommand := by
  unfold Obligations.IdleBlockWaitsForACommand
  intro s n hp hq
  induction n with
  | zero => rfl
  | succ n ih => rw [stepN, step_idle_wait hp hq]; exact ih

/-- Settles O24: each command passes the session check and starts at its `entry`. -/
theorem idleBlockTakesEveryCommand : Obligations.IdleBlockTakesEveryCommand := by
  unfold Obligations.IdleBlockTakesEveryCommand
  intro s hp
  refine ⟨exec_idle .init hp, exec_idle .beginSession hp, exec_idle .endSession hp, fun hs => ⟨fun len payload => ?_, ?_⟩⟩
  · rw [exec_idle _ hp, if_pos (show admitted (.send len payload) s = true from hs)]
    rfl
  · rw [exec_idle _ hp, if_pos (show admitted .recv s = true from hs)]
    rfl

/-- Settles O16: `State.reset` has each value as the spec gives it. -/
theorem resetLeavesTheGivenValues : Obligations.ResetLeavesTheGivenValues := by
  unfold Obligations.ResetLeavesTheGivenValues
  exact ⟨rfl, rfl, rfl, rfl, rfl, rfl, rfl⟩

end Sys2Proof.Machine
end

section
/-! What one step of a running command can do to the block (10_state.md R32): one inversion lemma, from which every claim
about what a step leaves unchanged is read off. -/

namespace Sys2Proof.Machine

/-- The state behind RXWAIT's store: the burst stands in the receive buffer at `total` (R58, R125). -/
def State.stored (s : State) : State := { s with buf := Memory.setBytes s.buf s.work.total.toNat s.work.bs }

/-- Everything a step of RXWAIT can do (R125): its store keeps the burst, and every other step is quiet. -/
theorem rxwaitStep_cases {p : RxPos} {s : State} {r : Option RxPos × State} (h : rxwaitStep p s = .next r) :
    (p ≠ .store ∧ Quiet s r.2) ∨
    (p = .store ∧ s.work.total.toNat + s.work.n.toNat ≤ s.cfg.rxCapacity ∧ s.work.bs.length = s.work.n.toNat ∧
      r = rxwaitStored s.stored) := by
  by_cases hp : p = .store
  · subst hp
    rw [rxwaitStep_store] at h
    split at h
    · next hfit => cases h; exact .inr ⟨rfl, hfit.1, hfit.2, rfl⟩
    · cases h
  · obtain ⟨r', hr, hquiet⟩ := rxwaitStep_quiet p s hp
    rw [hr] at h
    cases h
    exact .inl ⟨hp, hquiet⟩

/-- Doing nothing is quiet. -/
theorem quiet_refl (s : State) : Quiet s s := by constructor <;> simp

theorem quiet_rxwaitStored (s : State) : Quiet s (rxwaitStored s).2 := by
  rcases rxwaitStored_cases s with ⟨-, e⟩ | ⟨-, e⟩ <;> rw [e] <;> exact (quiet_refl s).setWork _

theorem quiet_rxwaitEnter {s t : State} (h : Quiet s t) (budget : Nat) : Quiet s (rxwaitEnter budget t).2 := h.setWork _

theorem quiet_txqueueEnter {s t : State} (h : Quiet s t) (len : Byte) : Quiet s (txqueueEnter len t).2 := by
  unfold txqueueEnter
  split
  · exact h
  · exact h.setWork _

/-- What one step of a running command makes of the block. But for the end of a command, BEGIN's `INITIALIZED <- 1` and
RXWAIT's store it is quiet and goes on at another position of the same command. -/
inductive Effect (s : State) : Running → State → Prop where
  | quiet (r r' : Running) (u : State) : Quiet s u → r'.instr = r.instr → Effect s r (u.goTo r')
  | broughtUp (b : BringupPos) (u : State) : Quiet s u →
      Effect s (.beginSession (.bringup b)) (({ u with initialized := true } : State).goTo (.beginSession .sleepOff))
  | stored (i : Instr) (inside : RxPos → Running) (behind r' : Running) (u : State) : Listener i inside behind →
      Quiet s.stored u → r'.instr = i → Effect s (inside .store) (u.goTo r')
  | initDone : Effect s (.init .finish) (({ s with initialized := true } : State).complete .done)
  | beginDone : Effect s (.beginSession .finish)
      (({ s with pending := 0#8, inSession := true, bufDefined := 0 } : State).complete .done)
  | endDone : Effect s (.endSession .finish) (({ s with inSession := false } : State).complete .done)
  | sendDone (len : Byte) (payload : List Byte) : Effect s (.send len payload .finish)
      (({ s with pending := lowByte s.work.count, bufDefined := s.work.count.toNat } : State).complete .done)
  | recvCached : Effect s (.recv .cached) (({ s with pending := 0#8 } : State).complete (.count s.pending))
  | recvDone : Effect s (.recv .finish)
      (({ s with bufDefined := s.work.count.toNat } : State).complete (.count (lowByte s.work.count)))

/-- A quiet procedure called by a command that goes on in either way. -/
theorem effect_callProc {π : Type} {s : State} {r behind : Running} {inside : π → Running} {c : Option π × State}
    (hc : Quiet s c.2) (hi : ∀ p, (inside p).instr = r.instr) (hb : behind.instr = r.instr) :
    Effect s r (callProc c (fun p t => t.goTo (inside p)) (fun t => t.goTo behind)) :=
  callProc_ind (P := Effect s r) _ _ _ (fun p => .quiet _ _ _ hc (hi p)) (.quiet _ _ _ hc hb)

theorem initStep_effect (p : InitPos) (s : State) : Effect s (.init p) (initStep p s) := by
  cases p with
  | finish => exact .initDone
  | bringup b => exact effect_callProc (quiet_bringupStep b s) (fun _ => rfl) rfl

theorem beginStep_effect (p : BeginPos) (s : State) : Effect s (.beginSession p) (beginStep p s) := by
  cases p with
  | finish => exact .beginDone
  | bringup b =>
    have hq := quiet_bringupStep b s
    simp only [beginStep]
    refine callProc_ind (P := Effect s _) (bringupStep b s) _ _ (fun p => ?_) ?_
    · exact .quiet _ _ _ hq rfl
    · exact .broughtUp b _ hq
  | sleepOff => exact .quiet _ _ _ (quiet_writeByte ..) rfl
  | pins => exact .quiet _ _ _ (quiet_writeByte ..) rfl
  | fifo => exact .quiet _ _ _ (quiet_writeByte ..) rfl

theorem endStep_effect (p : EndPos) (s : State) : Effect s (.endSession p) (endStep p s) := by
  cases p with
  | finish => exact .endDone
  | fifo => exact .quiet _ _ _ (quiet_writeByte ..) rfl
  | sleepOn => exact .quiet _ _ _ (quiet_writeByte ..) rfl
  | pins => exact .quiet _ _ _ (quiet_writeByte ..) rfl

/-- A step inside RXWAIT, in either of the commands that run it. -/
theorem listenStep_effect {i : Instr} {inside : RxPos → Running} {behind : Running} (hl : Listener i inside behind)
    {q : RxPos} {s t : State}
    (h : mapNext (fun r => callProc r (fun p u => u.goTo (inside p)) (fun u => u.goTo behind)) (rxwaitStep q s) = .next t) :
    Effect s (inside q) t := by
  have hinside : ∀ p, (inside p).instr = i := by cases hl <;> exact fun _ => rfl
  have hbehind : behind.instr = i := by cases hl <;> rfl
  cases hr : rxwaitStep q s with
  | fault e => rw [hr] at h; cases h
  | refused e => rw [hr] at h; cases h
  | next r =>
    rw [hr] at h
    cases h
    rcases rxwaitStep_cases hr with ⟨-, hq⟩ | ⟨rfl, -, -, rfl⟩
    · exact effect_callProc hq (fun p => (hinside p).trans (hinside q).symm) (hbehind.trans (hinside q).symm)
    · have hq := quiet_rxwaitStored s.stored
      exact callProc_ind (P := Effect s _) _ _ _ (fun p => .stored i inside behind _ _ hl hq (hinside p))
        (.stored i inside behind _ _ hl hq hbehind)

theorem sendStep_effect {len : Byte} {payload : List Byte} {p : SendPos} {s t : State}
    (h : sendStep len payload p s = .next t) : Effect s (.send len payload p) t := by
  cases p with
  | listen q => exact listenStep_effect (.send len payload) h
  | txOn => cases h; exact effect_callProc (quiet_txqueueEnter (quiet_writeByte ..) len) (fun _ => rfl) rfl
  | queue q => cases h; exact effect_callProc (quiet_txqueueStep len payload q s) (fun _ => rfl) rfl
  | drain => cases h; exact effect_callProc (quiet_txdrainStep s) (fun _ => rfl) rfl
  | rxOn => cases h; exact effect_callProc (quiet_rxwaitEnter (quiet_writeByte ..) _) (fun _ => rfl) rfl
  | finish => cases h; exact .sendDone len payload

theorem recvStep_effect {p : RecvPos} {s t : State} (h : recvStep p s = .next t) : Effect s (.recv p) t := by
  cases p with
  | listen q => exact listenStep_effect .recv h
  | cached => cases h; exact .recvCached
  | finish => cases h; exact .recvDone
  | rearm q =>
    cases h
    have hq := quiet_rearmStep q s
    exact callProc_ind (P := Effect s _) _ _ _ (fun p => .quiet _ _ _ hq rfl)
      (effect_callProc (quiet_rxwaitEnter hq _) (fun _ => rfl) rfl)

/-- Everything one step of a running command can do. -/
theorem runningStep_effect {r : Running} {s t : State} (h : runningStep r s = .next t) : Effect s r t := by
  cases r with
  | init p => cases h; exact initStep_effect p s
  | beginSession p => cases h; exact beginStep_effect p s
  | endSession p => cases h; exact endStep_effect p s
  | send len payload p => exact sendStep_effect h
  | recv p => exact recvStep_effect h

/-- Settles O21: of the effects of a step only the ends of SEND and BEGIN and RECV's cached path write PENDING. -/
theorem pendingHasThreeWriters : Obligations.PendingHasThreeWriters := by
  unfold Obligations.PendingHasThreeWriters
  intro s t h hne
  rcases step_cases h with rfl | ⟨-, rest, ht⟩ | ⟨r, hp, hr⟩
  · exact absurd rfl hne
  · cases ht <;> exact absurd rfl hne
  · cases runningStep_effect hr with
    | quiet _ _ u hq => exact absurd hq.pending hne
    | broughtUp b u hq => exact absurd hq.pending hne
    | stored i inside behind r' u hl hq => exact absurd hq.pending hne
    | initDone => exact absurd rfl hne
    | beginDone => exact .inr (.inl ⟨hp, rfl⟩)
    | endDone => exact absurd rfl hne
    | sendDone len payload => exact .inl ⟨len, payload, hp, rfl⟩
    | recvCached => exact .inr (.inr ⟨hp, rfl⟩)
    | recvDone => exact absurd rfl hne

/-- Settles O22: of the effects of a step only RXWAIT's store writes the buffer, and only the two listeners run RXWAIT. -/
theorem onlyRxwaitWritesTheBuffer : Obligations.OnlyRxwaitWritesTheBuffer := by
  unfold Obligations.OnlyRxwaitWritesTheBuffer
  intro s t h
  have unwritten (hb : t.buf = s.buf) : (∀ a, Memory.get t.buf a = Memory.get s.buf a) := fun a => by rw [hb]
  rcases step_cases h with rfl | ⟨-, rest, ht⟩ | ⟨r, hp, hr⟩
  · exact .inl (unwritten rfl)
  · cases ht <;> exact .inl (unwritten rfl)
  · cases runningStep_effect hr with
    | quiet _ _ u hq => exact .inl (unwritten hq.buf)
    | broughtUp b u hq => exact .inl (unwritten hq.buf)
    | stored i inside behind r' u hl hq =>
      cases hl with
      | recv => exact .inr (.inl hp)
      | send len payload => exact .inr (.inr ⟨len, payload, hp⟩)
    | initDone | beginDone | endDone | sendDone | recvCached | recvDone => exact .inl (unwritten rfl)

end Sys2Proof.Machine
end

section
/-! The invariant at each position of the internal procedures: where a procedure's step goes on, the condition of that
position holds, and where it returns, what the caller relies on (10_state.md R52; 40_bringup.md, 42_transmit.md,
43_receive.md). -/

namespace Sys2Proof.Machine

/-- A procedure's step meets the condition of the position it goes on at, or that of its return. -/
def CallOk {π : Type} (inside : State → π → Prop) (behind : State → Prop) (c : Option π × State) : Prop :=
  (∀ p, c.1 = some p → inside c.2 p) ∧ (c.1 = none → behind c.2)

theorem callOk_inside {π : Type} {inside : State → π → Prop} {behind : State → Prop} {p : π} {s : State}
    (h : inside s p) : CallOk inside behind (some p, s) := ⟨fun _ e => Option.some.inj e ▸ h, nofun⟩

theorem callOk_behind {π : Type} {inside : State → π → Prop} {behind : State → Prop} {s : State}
    (h : behind s) : CallOk inside behind (none, s) := ⟨nofun, fun _ => h⟩

/-- What follows from the condition at either way on holds behind the call. -/
theorem CallOk.elim {π σ : Type} {inside : State → π → Prop} {behind : State → Prop} {c : Option π × State}
    {P : σ → Prop} {f : π → State → σ} {g : State → σ} (h : CallOk inside behind c)
    (hi : ∀ p, inside c.2 p → P (f p c.2)) (hb : behind c.2 → P (g c.2)) : P (callProc c f g) := by
  rcases callProc_cases c f g with ⟨p, hp, e⟩ | ⟨hn, e⟩ <;> rw [e]
  · exact hi p (h.1 p hp)
  · exact hb (h.2 hn)

/-! FLUSH and BRINGUP -/

theorem flushHead_ok (s : State) : CallOk FlushOk (fun _ => True) (flushHead s) := by
  unfold flushHead
  split
  · next hk => exact callOk_inside hk
  · exact callOk_behind trivial

theorem flushStep_ok {p : FlushPos} {s : State} (hl : s.cfg.Legal) (h : FlushOk s p) :
    CallOk FlushOk (fun _ => True) (flushStep p s) := by
  cases p with
  | burst => exact flushHead_ok _
  | poll =>
    simp only [flushStep]
    split
    · exact callOk_behind trivial
    · next hv =>
      have hpos := byte_pos hv
      have hchunk := hl.flushChunk_pos
      refine callOk_inside ⟨by simpa [FlushOk] using h, ?_, ?_, ?_⟩ <;>
        simp only [setWork_work, setWork_cfg, readByte_cfg, minWord_toNat, zext16_toNat] <;> omega

theorem bringupAfterFlush_ok (q : Pass) (s : State) : CallOk BringupOk (fun _ => True) (bringupAfterFlush q s) := by
  cases q
  · exact callOk_inside trivial
  · exact callOk_behind trivial

theorem bringupFlush_ok (q : Pass) (s : State) : CallOk BringupOk (fun _ => True) (bringupFlush q s) :=
  (flushHead_ok _).elim (P := CallOk BringupOk fun _ => True) (fun _ h => callOk_inside h)
    (fun _ => bringupAfterFlush_ok q _)

theorem bringupStep_ok {p : BringupPos} {s : State} (hl : s.cfg.Legal) (h : BringupOk s p) :
    CallOk BringupOk (fun _ => True) (bringupStep p s) := by
  cases p with
  | disable | fifoOff | sleepOff | pins | settleFirst => exact callOk_inside trivial
  | divprog q d =>
    exact callProc_ind (P := CallOk BringupOk _) _ _ _ (fun _ => callOk_inside trivial) (callOk_inside trivial)
  | rearm q r =>
    simp only [bringupStep]
    refine callProc_ind (P := CallOk BringupOk _) (rearmStep r s) _ _ (fun _ => callOk_inside trivial) ?_
    cases q
    · exact callOk_inside trivial
    · exact bringupFlush_ok .second _
  | settleSecond => exact bringupFlush_ok .first _
  | flush q f =>
    exact (flushStep_ok hl h).elim (P := CallOk BringupOk _) (fun _ h => callOk_inside h)
      (fun _ => bringupAfterFlush_ok q _)

/-! TXQUEUE -/

theorem txqueueHead_ok {s : State} {len : Byte} (h : s.work.offset.toNat + s.work.remaining.toNat = len.toNat) :
    CallOk (TxOk · len) (fun _ => True) (txqueueHead s) := by
  unfold txqueueHead
  split
  · next hr => exact callOk_inside ⟨h, Nat.pos_of_ne_zero fun h0 => hr (BitVec.eq_of_toNat_eq h0)⟩
  · exact callOk_behind trivial

theorem txqueueEnter_ok (len : Byte) (s : State) : CallOk (TxOk · len) (fun _ => True) (txqueueEnter len s) := by
  unfold txqueueEnter
  split
  · next hs => exact callOk_inside hs
  · exact txqueueHead_ok (by simp [zext16_toNat])

theorem txqueueStep_ok {len : Byte} {payload : List Byte} {p : TxPos} {s : State} (h : TxOk s len p) :
    CallOk (TxOk · len) (fun _ => True) (txqueueStep len payload p s) := by
  cases p with
  | single => exact callOk_behind trivial
  | poll =>
    obtain ⟨hsum, hpos⟩ := h
    simp only [txqueueStep]
    split
    · exact txqueueHead_ok (by simpa using hsum)
    · next hv =>
      have hlevel := byte_pos hv
      refine callOk_inside ⟨by simpa using hsum, ?_, ?_, ?_⟩ <;>
        simp only [setWork_work, readByte_work, minWord_toNat, zext16_toNat] <;> omega
  | burst =>
    obtain ⟨hsum, -, hn, -⟩ := h
    have hlen := len.isLt
    refine txqueueHead_ok ?_
    simp only [setWork_work, writeBurst_work, BitVec.toNat_add, BitVec.toNat_sub]
    omega

/-! RXWAIT -/

theorem filled_zero (s : State) : Filled s 0 := fun _ hi => absurd hi (Nat.not_lt_zero _)

theorem Filled.of_buf {s t : State} {k : Nat} (h : Filled s k) (hb : t.buf = s.buf) : Filled t k := by
  unfold Filled
  rw [hb]
  exact h

/-- A store takes no byte out of the buffer (R58). -/
theorem Filled.stored {s : State} {k : Nat} (h : Filled s k) : Filled s.stored k := by
  intro i hi
  simp only [State.stored, Memory.get_setBytes]
  split
  · simp
  · exact h i hi

/-- Behind a store the bytes counted and the burst fill the front of the buffer (R58, R125). -/
theorem filled_stored {s : State} (h : Filled s s.work.total.toNat) :
    Filled s.stored (s.work.total.toNat + s.work.bs.length) := by
  intro i hi
  by_cases hlow : i < s.work.total.toNat
  · exact h.stored i hlow
  · simp only [State.stored, Memory.get_setBytes]
    rw [dif_pos ⟨by omega, by omega⟩]
    simp

theorem rxwaitEnter_ok {s : State} (hl : s.cfg.Legal) (budget : Nat) : CallOk RxOk CountOk (rxwaitEnter budget s) :=
  callOk_inside ⟨hl.rxCapacity_pos, BitVec.le_def.mpr (Nat.zero_le _), filled_zero _⟩

theorem rxwaitPolled_ok {v : Byte} {s : State} (h : RxOk s .poll) : CallOk RxOk CountOk (rxwaitPolled v s) := by
  obtain ⟨htotal, hiw, hfilled⟩ := h
  rcases rxwaitPolled_cases v s with ⟨⟨-, hlt⟩, e⟩ | ⟨-, -, e⟩ | ⟨-, -, e⟩ <;> rw [e]
  · exact callOk_inside ⟨htotal, hlt, hfilled⟩
  · exact callOk_behind ⟨htotal.le, hfilled⟩
  · exact callOk_inside ⟨htotal, hfilled⟩

/-- The clamp of R125: the burst it leaves fits the free space. -/
theorem rxwaitLevel_ok {v : Byte} {s : State} (h : RxOk s .reread) : RxOk (rxwaitLevel v s) .burst := by
  obtain ⟨htotal, hfilled⟩ := h
  refine ⟨htotal, ?_, hfilled⟩
  simp only [rxwaitLevel, setWork_work, setWork_cfg, minWord_toNat]
  omega

/-- The count behind a store does not wrap (R28, R132). -/
theorem toNat_total_add {s : State} (hl : s.cfg.Legal)
    (hfit : s.work.total.toNat + s.work.n.toNat ≤ s.cfg.rxCapacity) :
    (s.work.total + s.work.n).toNat = s.work.total.toNat + s.work.n.toNat := by
  have hcap := hl.rxCapacity_le
  rw [BitVec.toNat_add]
  omega

theorem rxwaitStored_ok {s : State} (hl : s.cfg.Legal) (h : RxOk s .store) :
    CallOk RxOk CountOk (rxwaitStored s.stored) := by
  obtain ⟨-, hfit, hlen, hfilled⟩ := h
  have htotal := toNat_total_add hl hfit
  have hstored : Filled s.stored (s.work.total + s.work.n).toNat := by
    rw [htotal, ← hlen]
    exact filled_stored hfilled
  rcases rxwaitStored_cases s.stored with ⟨-, e⟩ | ⟨hlt, e⟩ <;> rw [e]
  · exact callOk_behind ⟨htotal.trans_le hfit, hstored⟩
  · exact callOk_inside ⟨hlt, BitVec.le_def.mpr (Nat.zero_le _), hstored⟩

theorem rxwaitStep_ok {p : RxPos} {s : State} {c : Option RxPos × State} (hl : s.cfg.Legal) (h : RxOk s p)
    (hc : rxwaitStep p s = .next c) : CallOk RxOk CountOk c := by
  cases p with
  | poll =>
    cases hc
    exact rxwaitPolled_ok (by simpa [RxOk, Filled] using h)
  | pause =>
    cases hc
    obtain ⟨htotal, hiw, hfilled⟩ := h
    refine callOk_inside ⟨htotal, ?_, hfilled⟩
    simp only [setWork_work, spin_work]
    bv_omega
  | reread =>
    cases hc
    exact callOk_inside (rxwaitLevel_ok (by simpa [RxOk, Filled] using h))
  | burst =>
    cases hc
    obtain ⟨htotal, hfit, hfilled⟩ := h
    have hcap := hl.rxCapacity_le
    refine callOk_inside ⟨by simpa using htotal, by simpa using hfit, ?_, by simpa [Filled] using hfilled⟩
    simp only [setWork_work, readBurst_value, readBurst_work, answers_length]
    exact lowByte_toNat _ (by omega)
  | store =>
    rcases rxwaitStep_cases hc with ⟨hne, -⟩ | ⟨-, -, -, rfl⟩
    · exact absurd rfl hne
    · exact rxwaitStored_ok hl h

end Sys2Proof.Machine
end

section
/-! The invariant of the block (10_state.md R52): every step keeps the condition of its position, and with it the bounds of
the registers and of the receive buffer. -/

namespace Sys2Proof.Machine

/-- Only well-formed commands decode (R87, R88). -/
theorem wellFormed_of_decode {cap : Nat} {c : Command} {i : Instr} (h : decode cap c = .ok i) :
    i.wellFormed cap = true := by
  simp only [decode] at h
  split at h
  · split at h
    · cases h
    · next hlen =>
      split at h
      · cases h
      · next hcount =>
        cases h
        simpa [Instr.wellFormed, Instr.lengthInRange, Instr.payloadMatches] using ⟨Nat.le_of_not_lt hlen, not_not.mp hcount⟩
  · unfold c0Command at h
    split at h
    · cases h
    · next j hj =>
      split at h
      · cases h
      · cases h
        split_ifs at hj <;> cases hj <;> rfl

/-! The condition of the position a command goes on at. -/

/-- The block, if it is busy, meets the condition of its position. -/
def BusyOk (s : State) : Prop := ∀ r, s.phase = .busy r → RunningOk s r

theorem runningOk_goTo {s : State} {r r' : Running} (h : RunningOk s r) : RunningOk (s.goTo r') r := h

theorem busyOk_goTo {s : State} {r : Running} (h : RunningOk s r) : BusyOk (s.goTo r) := by
  intro r' hr
  cases hr
  exact runningOk_goTo h

theorem busyOk_complete (s : State) (c : Completion) : BusyOk (s.complete c) := nofun

theorem initStep_ok {p : InitPos} {s : State} (hl : s.cfg.Legal) (h : RunningOk s (.init p)) :
    BusyOk (initStep p s) := by
  cases p with
  | finish => exact busyOk_complete _ _
  | bringup b =>
    exact (bringupStep_ok hl h).elim (P := BusyOk) (fun _ hb => busyOk_goTo hb) (fun _ => busyOk_goTo trivial)

theorem beginStep_ok {p : BeginPos} {s : State} (hl : s.cfg.Legal) (h : RunningOk s (.beginSession p)) :
    BusyOk (beginStep p s) := by
  cases p with
  | finish => exact busyOk_complete _ _
  | bringup b =>
    obtain ⟨hinit, hb⟩ := h
    have hframe := (quiet_bringupStep b s).initialized
    exact (bringupStep_ok hl hb).elim (P := BusyOk) (fun _ hb => busyOk_goTo ⟨hframe.trans hinit, hb⟩)
      (fun _ => busyOk_goTo rfl)
  | sleepOff => exact busyOk_goTo h
  | pins => exact busyOk_goTo h
  | fifo => exact busyOk_goTo h

theorem endStep_ok (p : EndPos) (s : State) : BusyOk (endStep p s) := by
  cases p with
  | finish => exact busyOk_complete _ _
  | fifo | sleepOn | pins => exact busyOk_goTo trivial

/-- RXWAIT changes neither the parameters nor PENDING nor IN_SESSION. -/
theorem rxwaitStep_frame {p : RxPos} {s : State} {c : Option RxPos × State} (h : rxwaitStep p s = .next c) :
    c.2.cfg = s.cfg ∧ c.2.pending = s.pending ∧ c.2.inSession = s.inSession := by
  rcases rxwaitStep_cases h with ⟨-, hq⟩ | ⟨-, -, -, rfl⟩
  · exact ⟨hq.cfg, hq.pending, hq.inSession⟩
  · have hq := quiet_rxwaitStored s.stored
    exact ⟨hq.cfg, hq.pending, hq.inSession⟩

theorem mapNext_eq_next {α β : Type} {f : α → β} {o : Host.Outcome α Fault Refusal} {b : β}
    (h : mapNext f o = .next b) : ∃ a, o = .next a ∧ f a = b := by
  cases o with
  | next a => cases h; exact ⟨a, rfl, rfl⟩
  | fault e => cases h
  | refused e => cases h

theorem sendStep_ok {len : Byte} {payload : List Byte} {p : SendPos} {s t : State} (hl : s.cfg.Legal)
    (h : RunningOk s (.send len payload p)) (ht : sendStep len payload p s = .next t) : BusyOk t := by
  obtain ⟨hsession, hwf, hok⟩ := h
  have go {u : State} {q : SendPos} (hc : u.cfg = s.cfg) (hi : u.inSession = s.inSession) (hq : SendOk u len q) :
      BusyOk (u.goTo (.send len payload q)) := busyOk_goTo ⟨hi.trans hsession, hc ▸ hwf, hq⟩
  cases p with
  | txOn =>
    cases ht
    have hq := quiet_txqueueEnter (quiet_writeByte s .efcr s.cfg.efcrTxOnly) len
    exact (txqueueEnter_ok len _).elim (P := BusyOk) (fun q => go (q := .queue q) hq.cfg hq.inSession)
      (go (q := .drain) hq.cfg hq.inSession)
  | queue q =>
    cases ht
    have hq := quiet_txqueueStep len payload q s
    exact (txqueueStep_ok hok).elim (P := BusyOk) (fun q => go (q := .queue q) hq.cfg hq.inSession)
      (go (q := .drain) hq.cfg hq.inSession)
  | drain =>
    cases ht
    have hq := quiet_txdrainStep s
    exact callProc_ind (P := BusyOk) _ _ _ (fun _ => go hq.cfg hq.inSession trivial) (go hq.cfg hq.inSession trivial)
  | rxOn =>
    cases ht
    have hq := quiet_rxwaitEnter (quiet_writeByte s .efcr s.cfg.efcrRxOnly) s.cfg.rxLongWait
    exact (rxwaitEnter_ok (s := s.writeByte .efcr s.cfg.efcrRxOnly) hl _).elim (P := BusyOk)
      (fun q => go (q := .listen q) hq.cfg hq.inSession) (go (q := .finish) hq.cfg hq.inSession)
  | listen q =>
    obtain ⟨c, hc, rfl⟩ := mapNext_eq_next ht
    obtain ⟨hcfg, -, hin⟩ := rxwaitStep_frame hc
    exact (rxwaitStep_ok hl hok hc).elim (P := BusyOk) (fun q => go (q := .listen q) hcfg hin) (go (q := .finish) hcfg hin)
  | finish => cases ht; exact busyOk_complete _ _

theorem recvStep_ok {p : RecvPos} {s t : State} (hl : s.cfg.Legal) (h : RunningOk s (.recv p))
    (ht : recvStep p s = .next t) : BusyOk t := by
  obtain ⟨hsession, hok⟩ := h
  cases p with
  | cached => cases ht; exact busyOk_complete _ _
  | finish => cases ht; exact busyOk_complete _ _
  | rearm q =>
    cases ht
    have hq := quiet_rearmStep q s
    have hsession' := hq.inSession.trans hsession
    have hpending := hq.pending.trans hok
    refine callProc_ind (P := BusyOk) (rearmStep q s) _ _ (fun _ => busyOk_goTo ⟨hsession', hpending⟩) ?_
    exact (rxwaitEnter_ok (hq.cfg ▸ hl) _).elim (P := BusyOk) (fun _ hrx => busyOk_goTo ⟨hsession', hpending, hrx⟩)
      (fun hcount => busyOk_goTo ⟨hsession', hpending, hcount⟩)
  | listen q =>
    obtain ⟨hpending, hrx⟩ := hok
    obtain ⟨c, hc, rfl⟩ := mapNext_eq_next ht
    obtain ⟨-, hpend, hin⟩ := rxwaitStep_frame hc
    exact (rxwaitStep_ok hl hrx hc).elim (P := BusyOk)
      (fun _ hrx => busyOk_goTo ⟨hin.trans hsession, hpend.trans hpending, hrx⟩)
      (fun hcount => busyOk_goTo ⟨hin.trans hsession, hpend.trans hpending, hcount⟩)

theorem runningStep_ok {r : Running} {s t : State} (hl : s.cfg.Legal) (h : RunningOk s r)
    (ht : runningStep r s = .next t) : BusyOk t := by
  cases r with
  | init p => cases ht; exact initStep_ok hl h
  | beginSession p => cases ht; exact beginStep_ok hl h
  | endSession p => cases ht; exact endStep_ok p s
  | send len payload p => exact sendStep_ok hl h ht
  | recv p => exact recvStep_ok hl h ht

/-- An accepted command meets the condition of its first position (R113, R117, R127, R142). -/
theorem entry_ok {s : State} {i : Instr} (ha : admitted i s = true) (hw : i.wellFormed s.cfg.rxCapacity = true) :
    RunningOk s (entry i s) := by
  cases i with
  | init => trivial
  | endSession => trivial
  | send len payload => exact ⟨ha, hw, trivial⟩
  | beginSession =>
    cases hi : s.initialized <;> simp [entry, beginEntry, RunningOk, BringupOk, hi]
  | recv =>
    refine ⟨ha, ?_⟩
    by_cases hp : s.pending = 0#8 <;> simp [recvEntry, RecvOk, hp]

/-! The bounds of the registers and of the receive buffer. -/

/-- The part of the invariant that no position enters: R11 to R19, R52(a), R44, R45. -/
structure Bounded (s : State) : Prop where
  legal : s.cfg.Legal
  pending : s.pending.toNat ≤ s.cfg.rxCapacity
  wf : Memory.wf s.buf = true
  within : Memory.within s.cfg.rxCapacity s.buf = true
  defined : s.bufDefined ≤ s.cfg.rxCapacity
  filled : Filled s s.bufDefined

theorem State.Inv.bounded {s : State} (h : s.Inv) : Bounded s :=
  ⟨h.legal, h.pending, h.wf, h.within, h.defined, h.filled⟩

theorem Bounded.inv {s : State} (h : Bounded s) (hp : PhaseOk s s.phase) : s.Inv :=
  ⟨h.legal, h.pending, h.wf, h.within, h.defined, h.filled, hp⟩

theorem Bounded.congr {s t : State} (h : Bounded s) (hc : t.cfg = s.cfg) (hp : t.pending = s.pending)
    (hb : t.buf = s.buf) (hd : t.bufDefined = s.bufDefined) : Bounded t := by
  obtain ⟨h1, h2, h3, h4, h5, h6⟩ := h
  refine ⟨hc ▸ h1, by rwa [hc, hp], hb ▸ h3, by rwa [hc, hb], by rwa [hc, hd], ?_⟩
  rw [hd]
  exact h6.of_buf hb

theorem Bounded.quiet {s u : State} (h : Bounded s) (hq : Quiet s u) : Bounded u :=
  h.congr hq.cfg hq.pending hq.buf hq.bufDefined

/-- RXWAIT's store stays within the buffer and keeps its canonical form (R58, R132). -/
theorem Bounded.stored {s : State} (h : Bounded s) (hrx : RxOk s .store) : Bounded s.stored := by
  obtain ⟨-, hfit, hlen, -⟩ := hrx
  exact ⟨h.legal, h.pending, Memory.wf_setBytes _ _ _ h.wf,
    Memory.within_setBytes _ _ _ _ (by rwa [hlen]) h.within, h.defined, h.filled.stored⟩

/-- An RXWAIT result becomes the count of defined bytes (R45, R132). -/
theorem Bounded.counted {s : State} (h : Bounded s) (hc : CountOk s) :
    Bounded { s with bufDefined := s.work.count.toNat } :=
  ⟨h.legal, h.pending, h.wf, h.within, hc.1, hc.2⟩

theorem lowByte_count {s : State} (hl : s.cfg.Legal) (hc : CountOk s) : (lowByte s.work.count).toNat ≤ s.cfg.rxCapacity := by
  have hcap := hl.rxCapacity_le
  have hcount := hc.1
  rw [lowByte_toNat _ (by omega)]
  exact hcount

theorem Bounded.withPending {s : State} (h : Bounded s) {v : Byte} (hv : v.toNat ≤ s.cfg.rxCapacity) :
    Bounded { s with pending := v } :=
  ⟨h.legal, hv, h.wf, h.within, h.defined, h.filled⟩

theorem runningOk_listener_store {i : Instr} {inside : RxPos → Running} {behind : Running} {s : State}
    (hl : Listener i inside behind) (h : RunningOk s (inside .store)) : RxOk s .store := by
  cases hl with
  | recv => obtain ⟨-, -, hrx⟩ := h; exact hrx
  | send => obtain ⟨-, -, hrx⟩ := h; exact hrx

theorem Effect.bounded {r : Running} {s t : State} (he : Effect s r t) (h : Bounded s) (hr : RunningOk s r) :
    Bounded t := by
  cases he with
  | quiet _ _ u hq => exact (h.quiet hq).congr rfl rfl rfl rfl
  | broughtUp b u hq => exact (h.quiet hq).congr rfl rfl rfl rfl
  | stored i inside behind r' u hl hq =>
    exact ((h.stored (runningOk_listener_store hl hr)).quiet hq).congr rfl rfl rfl rfl
  | initDone => exact h.congr rfl rfl rfl rfl
  | beginDone =>
    exact ⟨h.legal, Nat.zero_le _, h.wf, h.within, Nat.zero_le _, filled_zero _⟩
  | endDone => exact h.congr rfl rfl rfl rfl
  | sendDone len payload =>
    obtain ⟨-, -, hc⟩ := hr
    exact ((h.counted hc).withPending (lowByte_count h.legal hc)).congr rfl rfl rfl rfl
  | recvCached => exact (h.withPending (Nat.zero_le _)).congr rfl rfl rfl rfl
  | recvDone =>
    obtain ⟨-, -, hc⟩ := hr
    exact (h.counted hc).congr rfl rfl rfl rfl

/-- A running command raises no fault (R142, R145). -/
theorem Effect.phaseOk {r : Running} {s t : State} (he : Effect s r t) (hf : s.fault = 0#3) (hi : s.faultInfo = none)
    (ht : BusyOk t) : PhaseOk t t.phase := by
  cases he with
  | quiet _ r' u hq => exact ⟨hq.fault.trans hf, hq.faultInfo.trans hi, ht _ rfl⟩
  | broughtUp b u hq => exact ⟨hq.fault.trans hf, hq.faultInfo.trans hi, ht _ rfl⟩
  | stored i inside behind r' u hl hq => exact ⟨hq.fault.trans hf, hq.faultInfo.trans hi, ht _ rfl⟩
  | initDone | beginDone | endDone | sendDone | recvCached | recvDone => exact ⟨hf, hi⟩

theorem faultCode_in_range (c : FaultCode) : c.code ≠ 0#3 ∧ c.code ≠ 7#3 := by
  cases c <;> decide

theorem Taken.bounded {s t : State} (ht : Taken s t) (h : Bounded s) : Bounded t := by
  cases ht <;> exact h.congr rfl rfl rfl rfl

theorem Taken.phaseOk {s t : State} (ht : Taken s t) (hp : s.phase = .idle) (h : PhaseOk s .idle) :
    PhaseOk t t.phase := by
  obtain ⟨hf, hi⟩ := h
  cases ht with
  | accepted c i hd ha => exact ⟨hf, hi, runningOk_goTo (entry_ok ha (wellFormed_of_decode hd))⟩
  | faulted code info =>
    obtain ⟨h0, h7⟩ := faultCode_in_range code
    exact ⟨h0, h7, nofun⟩
  | answered bytes d =>
    show PhaseOk _ s.phase
    rw [hp]
    exact ⟨hf, hi⟩

/-- Settles O12: the bounds by the effect of the step, the condition of the position by the procedure it runs. -/
theorem everyStepKeepsTheInvariant : Obligations.EveryStepKeepsTheInvariant := by
  unfold Obligations.EveryStepKeepsTheInvariant
  intro s t h hs
  rcases step_cases hs with rfl | ⟨hp, rest, ht⟩ | ⟨r, hp, hr⟩
  · exact h
  · have hidle : PhaseOk s .idle := hp ▸ h.phase
    exact (ht.bounded (h.bounded.congr rfl rfl rfl rfl)).inv (ht.phaseOk hp hidle)
  · obtain ⟨hf, hi, hok⟩ : PhaseOk s (.busy r) := hp ▸ h.phase
    have he := runningStep_effect hr
    exact (he.bounded h.bounded hok).inv (he.phaseOk hf hi (runningStep_ok h.legal hok hr))

/-- Reset's line-status mask has one bit, wherever it stands (R101). -/
theorem source_legal : Config.source.Legal := by
  refine ⟨?_, ?_, ?_, ?_, ?_, ?_, ?_, ?_, ?_, ?_, ⟨Config.lsrTxEmptyBit, rfl⟩⟩ <;> decide

/-- Settles O13: the source's parameters are legal, the buffer is empty, and no fault is set. -/
theorem resetMeetsTheInvariant : Obligations.ResetMeetsTheInvariant :=
  ⟨source_legal, Nat.zero_le _, reset_memory_wf, rfl, Nat.zero_le _, filled_zero _, rfl, rfl⟩

/-- INITIALIZED is set by a step or stays (R34, R52(b)). -/
theorem step_keeps_initialized {s t : State} (h : step s = .next t) (hi : s.initialized = true) :
    t.initialized = true := by
  rcases step_cases h with rfl | ⟨-, rest, ht⟩ | ⟨r, -, hr⟩
  · exact hi
  · cases ht <;> exact hi
  · cases runningStep_effect hr with
    | quiet _ _ u hq => exact hq.initialized.trans hi
    | stored i inside behind r' u hl hq => exact hq.initialized.trans hi
    | broughtUp | initDone => rfl
    | beginDone | endDone | sendDone | recvCached | recvDone => exact hi

/-- FAULT is set exactly in HALTED (R52(d)). -/
theorem State.Inv.halted_iff {s : State} (h : s.Inv) : s.phase = .halted ↔ s.fault ≠ 0#3 := by
  have hp := h.phase
  cases hphase : s.phase with
  | idle => rw [hphase] at hp; simp [hp.1]
  | busy r => rw [hphase] at hp; simp [hp.1]
  | halted => rw [hphase] at hp; simp [hp.1]

/-- Settles O15: the invariant holds behind the step, and in HALTED no step changes anything. -/
theorem statusRegistersObeyTheirInvariants : Obligations.StatusRegistersObeyTheirInvariants := by
  unfold Obligations.StatusRegistersObeyTheirInvariants
  intro s t h hs
  have ht := everyStepKeepsTheInvariant s t h hs
  refine ⟨ht.pending, step_keeps_initialized hs, fun hf => ?_, ht.halted_iff⟩
  rw [step_halted (h.halted_iff.mpr hf)] at hs
  cases hs
  rfl

end Sys2Proof.Machine
end

section
/-! The bus accesses of a step (10_state.md R39; 20_memory.md R53 to R56, R65): each primitive the block issues is a permitted
one, so each event a step adds is. -/

namespace Sys2Proof.Machine

/-- The registers the block reads a byte at a time (R39, R53). -/
def Reg.polled : Reg → Bool
  | .lsr | .txlvl | .rxlvl => true
  | .fifo | .dll | .ier | .dlh | .fcr | .lcr | .iostate | .efcr => false

/-- The registers the block writes a byte at a time (R39, R54). -/
def Reg.programmed : Reg → Bool
  | .dll | .ier | .dlh | .fcr | .lcr | .iostate | .efcr => true
  | .fifo | .lsr | .txlvl | .rxlvl => false

theorem permitted_rd {r : Reg} (h : r.polled = true) (v : Byte) : Permitted (.rd r.offset v) := by
  cases r <;> simp [Reg.polled, Permitted, Reg.offset] at h ⊢

theorem permitted_wr {r : Reg} (h : r.programmed = true) (v : Byte) : Permitted (.wr r.offset v) := by
  cases r <;> simp [Reg.programmed, Permitted, Reg.offset] at h ⊢

/-- If the bus trace of `t` is that of `s` and one event more, the event is a permitted one. -/
def Issues (s t : State) : Prop := ∀ e, t.trace = s.trace ++ [e] → Permitted e

theorem issues_none {s t : State} (h : t.trace = s.trace) : Issues s t := by
  intro e he
  simp [h] at he

theorem issues_one {s t : State} {e : BusEvent} (h : t.trace = s.trace ++ [e]) (he : Permitted e) : Issues s t := by
  intro e' he'
  obtain rfl : e = e' := by simpa [h] using he'
  exact he

theorem issues_writeByte (s : State) {r : Reg} (h : r.programmed = true) (v : Byte) : Issues s (s.writeByte r v) :=
  issues_one (writeByte_trace s r v) (permitted_wr h v)

theorem issues_readByte (s : State) {r : Reg} (h : r.polled = true) : Issues s (s.readByte r).2 :=
  issues_one (readByte_trace s r) (permitted_rd h _)

/-- A burst read returns exactly its count (R55). -/
theorem issues_readBurst (s : State) (n : Byte) : Issues s (s.readBurst .fifo n).2 :=
  issues_one (readBurst_trace s .fifo n) ⟨rfl, answers_length s .fifo n.toNat⟩

theorem issues_writeBurst (s : State) {bs : List Byte} (h : bs.length ≤ 255) : Issues s (s.writeBurst .fifo bs) :=
  issues_one (writeBurst_trace s .fifo bs) ⟨rfl, h⟩

theorem Issues.setWork {s t : State} (h : Issues s t) (w : Work) : Issues s (t.setWork w) := h

theorem Issues.goTo {s t : State} (h : Issues s t) (r : Running) : Issues s (t.goTo r) := h

/-- A command that goes on in either way issues what the procedure it called issues. -/
theorem Issues.callProc {π : Type} {s : State} {c : Option π × State} {inside : π → Running} {behind : Running}
    (h : Issues s c.2) :
    Issues s (Machine.callProc c (fun p t => t.goTo (inside p)) (fun t => t.goTo behind)) :=
  callProc_ind (P := Issues s) _ _ _ (fun p => h.goTo (inside p)) (h.goTo behind)

theorem issues_divprogStep (p : DivPos) (s : State) : Issues s (divprogStep p s).2 := by
  cases p <;> exact issues_writeByte s rfl _

theorem issues_rearmStep (p : RearmPos) (s : State) : Issues s (rearmStep p s).2 := by
  cases p <;> exact issues_writeByte s rfl _

theorem issues_flushStep (p : FlushPos) (s : State) : Issues s (flushStep p s).2 := by
  cases p with
  | poll =>
    simp only [flushStep]
    split <;> exact (issues_readByte s rfl).setWork _
  | burst => exact (issues_readBurst s _).setWork _

theorem bringupAfterFlush_state (q : Pass) (s : State) : (bringupAfterFlush q s).2 = s := by
  cases q <;> rfl

theorem issues_bringupFlush {s t : State} (h : Issues s t) (q : Pass) : Issues s (bringupFlush q t).2 := by
  rw [bringupFlush_state]
  exact h.setWork _

theorem issues_bringupStep (p : BringupPos) (s : State) : Issues s (bringupStep p s).2 := by
  cases p with
  | disable => exact issues_writeByte s rfl _
  | fifoOff => exact issues_writeByte s rfl _
  | sleepOff => exact issues_writeByte s rfl _
  | pins => exact issues_writeByte s rfl _
  | settleFirst => exact issues_none rfl
  | divprog q d =>
    have h := issues_divprogStep d s
    exact callProc_ind (P := fun c : Option BringupPos × State => Issues s c.2) _ _ _ (fun _ => h) h
  | rearm q r =>
    have h := issues_rearmStep r s
    simp only [bringupStep]
    refine callProc_ind (P := fun c : Option BringupPos × State => Issues s c.2) (rearmStep r s) _ _ (fun _ => h) ?_
    cases q
    · exact h
    · exact issues_bringupFlush h .second
  | settleSecond => exact issues_bringupFlush (issues_none rfl) .first
  | flush q f =>
    have h := issues_flushStep f s
    simp only [bringupStep]
    refine callProc_ind (P := fun c : Option BringupPos × State => Issues s c.2) (flushStep f s) _ _ (fun _ => h) ?_
    rw [bringupAfterFlush_state]
    exact h

theorem initStep_issues (p : InitPos) (s : State) : Issues s (initStep p s) := by
  cases p with
  | bringup b => exact (issues_bringupStep b s).callProc
  | finish => exact issues_none rfl

theorem beginStep_issues (p : BeginPos) (s : State) : Issues s (beginStep p s) := by
  cases p with
  | bringup b =>
    have h := issues_bringupStep b s
    exact callProc_ind (P := Issues s) _ _ _ (fun _ => h) h
  | sleepOff => exact (issues_writeByte s rfl _).goTo _
  | pins => exact (issues_writeByte s rfl _).goTo _
  | fifo => exact (issues_writeByte s rfl _).goTo _
  | finish => exact issues_none rfl

theorem endStep_issues (p : EndPos) (s : State) : Issues s (endStep p s) := by
  cases p with
  | fifo => exact (issues_writeByte s rfl _).goTo _
  | sleepOn => exact (issues_writeByte s rfl _).goTo _
  | pins => exact (issues_writeByte s rfl _).goTo _
  | finish => exact issues_none rfl

theorem payloadSlice_length_le (payload : List Byte) (offset n : Word) :
    (payloadSlice payload offset n).length ≤ n.toNat := List.length_take_le ..

theorem issues_txqueueEnter {s t : State} (h : Issues s t) (len : Byte) : Issues s (txqueueEnter len t).2 := by
  unfold txqueueEnter
  split
  · exact h
  · exact h.setWork _

/-- What TXQUEUE sends at once is never more than SEND's length, an 8-bit one (R56, R120). -/
theorem issues_txqueueStep {len : Byte} {payload : List Byte} {p : TxPos} {s : State} (h : TxOk s len p) :
    Issues s (txqueueStep len payload p s).2 := by
  have hlen := len.isLt
  cases p with
  | single =>
    have hle := payloadSlice_length_le payload 0#16 (zext16 len)
    rw [zext16_toNat] at hle
    exact issues_writeBurst s (by omega)
  | poll =>
    simp only [txqueueStep]
    split <;> exact (issues_readByte s rfl).setWork _
  | burst =>
    obtain ⟨hsum, -, hn, -⟩ := h
    have hle := payloadSlice_length_le payload s.work.offset s.work.n
    exact (issues_writeBurst s (by omega)).setWork _

theorem rxwaitStep_issues {p : RxPos} {s : State} {c : Option RxPos × State} (h : rxwaitStep p s = .next c) :
    Issues s c.2 := by
  cases p with
  | poll =>
    cases h
    have hread : Issues s (s.readByte .rxlvl).2 := issues_readByte s rfl
    rcases rxwaitPolled_cases (s.readByte .rxlvl).1 (s.readByte .rxlvl).2 with ⟨-, e⟩ | ⟨-, -, e⟩ | ⟨-, -, e⟩ <;> rw [e]
    · exact hread
    · exact hread.setWork _
    · exact hread.setWork _
  | pause => cases h; exact issues_none rfl
  | reread => cases h; exact (issues_readByte s rfl).setWork _
  | burst => cases h; exact (issues_readBurst s _).setWork _
  | store =>
    rcases rxwaitStep_cases h with ⟨hne, -⟩ | ⟨-, -, -, rfl⟩
    · exact absurd rfl hne
    · rcases rxwaitStored_cases s.stored with ⟨-, e⟩ | ⟨-, e⟩ <;> rw [e] <;> exact issues_none rfl

theorem sendStep_issues {len : Byte} {payload : List Byte} {p : SendPos} {s t : State} (h : SendOk s len p)
    (ht : sendStep len payload p s = .next t) : Issues s t := by
  cases p with
  | txOn => cases ht; exact (issues_txqueueEnter (issues_writeByte s rfl _) len).callProc
  | queue q => cases ht; exact (issues_txqueueStep h).callProc
  | drain => cases ht; exact ((issues_readByte s rfl).setWork _).callProc (c := txdrainStep s)
  | rxOn => cases ht; exact (issues_writeByte s rfl _).callProc (c := rxwaitEnter _ _)
  | listen q =>
    obtain ⟨c, hc, rfl⟩ := mapNext_eq_next ht
    exact (rxwaitStep_issues hc).callProc
  | finish => cases ht; exact issues_none rfl

theorem recvStep_issues {p : RecvPos} {s t : State} (ht : recvStep p s = .next t) : Issues s t := by
  cases p with
  | cached => cases ht; exact issues_none rfl
  | rearm q =>
    cases ht
    have h := issues_rearmStep q s
    exact callProc_ind (P := Issues s) _ _ _ (fun _ => h) (h.callProc (c := rxwaitEnter _ _))
  | listen q =>
    obtain ⟨c, hc, rfl⟩ := mapNext_eq_next ht
    exact (rxwaitStep_issues hc).callProc
  | finish => cases ht; exact issues_none rfl

theorem runningStep_issues {r : Running} {s t : State} (h : RunningOk s r) (ht : runningStep r s = .next t) :
    Issues s t := by
  cases r with
  | init p => cases ht; exact initStep_issues p s
  | beginSession p => cases ht; exact beginStep_issues p s
  | endSession p => cases ht; exact endStep_issues p s
  | send len payload p =>
    obtain ⟨-, -, hok⟩ := h
    exact sendStep_issues hok ht
  | recv p => exact recvStep_issues ht

/-- Settles O19: a step in IDLE or HALTED adds no event, and a running command's step a permitted one. -/
theorem busAccessesStayWithinTheRegisterMap : Obligations.BusAccessesStayWithinTheRegisterMap := by
  unfold Obligations.BusAccessesStayWithinTheRegisterMap
  intro s t e h hs
  suffices hissues : Issues s t from hissues e
  rcases step_cases hs with rfl | ⟨-, rest, ht⟩ | ⟨r, hp, hr⟩
  · exact issues_none rfl
  · cases ht <;> exact issues_none rfl
  · obtain ⟨-, -, hok⟩ : PhaseOk s (.busy r) := hp ▸ h.phase
    exact runningStep_issues hok hr

end Sys2Proof.Machine
end

section
/-! What the working registers hold is seen only where they are live (10_state.md R29): two blocks alike but for registers
that are not read from their position on make the same step, and are such a pair again. -/

namespace Sys2Proof.Machine

/-! The working registers in which two blocks must agree, at each position: those that are read before they are written. -/

/-- FLUSH counts its passes in `k`, and its burst reads `n` (R108). -/
def FlushAgree (v w : Work) : FlushPos → Prop
  | .poll => w.k = v.k
  | .burst => w.k = v.k ∧ w.n = v.n

/-- Of BRINGUP's procedures only FLUSH reads working registers (R105). -/
def BringupAgree (v w : Work) : BringupPos → Prop
  | .flush _ p => FlushAgree v w p
  | .disable | .fifoOff | .sleepOff | .pins | .settleFirst | .divprog _ _ | .rearm _ _ | .settleSecond => True

/-- TXQUEUE's chunk loop reads `offset` and `remaining`, and its burst reads `n` (R120). -/
def TxAgree (v w : Work) : TxPos → Prop
  | .single => True
  | .poll => w.offset = v.offset ∧ w.remaining = v.remaining
  | .burst => w.offset = v.offset ∧ w.remaining = v.remaining ∧ w.n = v.n

/-- RXWAIT reads `total` and `rb` throughout, `iw` in a wait, `n` from the burst and `bs` at the store (R125). -/
def RxAgree (v w : Work) : RxPos → Prop
  | .poll | .pause => w.total = v.total ∧ w.rb = v.rb ∧ w.iw = v.iw
  | .reread => w.total = v.total ∧ w.rb = v.rb
  | .burst => w.total = v.total ∧ w.rb = v.rb ∧ w.n = v.n
  | .store => w.total = v.total ∧ w.rb = v.rb ∧ w.n = v.n ∧ w.bs = v.bs

/-- Behind RXWAIT only `count` is read (R125). -/
def CountAgree (v w : Work) : Prop := w.count = v.count

def SendAgree (v w : Work) : SendPos → Prop
  | .txOn | .drain | .rxOn => True
  | .queue q => TxAgree v w q
  | .listen q => RxAgree v w q
  | .finish => CountAgree v w

def RecvAgree (v w : Work) : RecvPos → Prop
  | .cached | .rearm _ => True
  | .listen q => RxAgree v w q
  | .finish => CountAgree v w

def RunningAgree (v w : Work) : Running → Prop
  | .init (.bringup p) | .beginSession (.bringup p) => BringupAgree v w p
  | .init .finish | .beginSession .sleepOff | .beginSession .pins | .beginSession .fifo | .beginSession .finish
  | .endSession _ => True
  | .send _ _ p => SendAgree v w p
  | .recv p => RecvAgree v w p

def PhaseAgree (v w : Work) : Phase → Prop
  | .idle | .halted => True
  | .busy r => RunningAgree v w r

/-- The two blocks differ in working registers alone, and in none that is read from their position on. -/
def Alike (s t : State) : Prop := ∃ w, t = s.setWork w ∧ PhaseAgree s.work w s.phase

/-- Two procedure steps go on at the same position, or both return, with states that differ in working registers alone, and
in none that is read from there on. -/
def CallAlike {π : Type} (inside : Work → Work → π → Prop) (behind : Work → Work → Prop) (c d : Option π × State) : Prop :=
  ∃ w, d = (c.1, c.2.setWork w) ∧ CallOk (fun s p => inside s.work w p) (fun s => behind s.work w) c

/-- No register need agree. -/
def Free (_ _ : Work) : Prop := True

section Calls

variable {π σ : Type} {inside : Work → Work → π → Prop} {behind : Work → Work → Prop}

theorem callAlike_inside {p : π} {s : State} {w : Work} (h : inside s.work w p) :
    CallAlike inside behind (some p, s) (some p, s.setWork w) := ⟨w, rfl, callOk_inside h⟩

theorem callAlike_behind {s : State} {w : Work} (h : behind s.work w) :
    CallAlike inside behind (none, s) (none, s.setWork w) := ⟨w, rfl, callOk_behind h⟩

/-- Two blocks that take the same branch. -/
theorem CallAlike.ite {P Q : Prop} [Decidable P] [Decidable Q] {c c' d d' : Option π × State} (hQ : Q ↔ P)
    (hc : CallAlike inside behind c d) (hc' : CallAlike inside behind c' d') :
    CallAlike inside behind (if P then c else c') (if Q then d else d') := by
  by_cases hP : P
  · rwa [if_pos hP, if_pos (hQ.mpr hP)]
  · rwa [if_neg hP, if_neg (mt hQ.mp hP)]

/-- Two blocks that take the same branch, where only the position hangs on it. -/
theorem callAlike_ite {P Q : Prop} [Decidable P] [Decidable Q] {o o' : Option π} {s : State} {w : Work} (hQ : Q ↔ P)
    (ho : CallAlike inside behind (o, s) (o, s.setWork w)) (ho' : CallAlike inside behind (o', s) (o', s.setWork w)) :
    CallAlike inside behind (if P then o else o', s) (if Q then o else o', s.setWork w) := by
  by_cases hP : P
  · rwa [if_pos hP, if_pos (hQ.mpr hP)]
  · rwa [if_neg hP, if_neg (mt hQ.mp hP)]

/-- A relation that holds on both ways on holds behind the two calls. -/
theorem CallAlike.elim {R : σ → σ → Prop} {c d : Option π × State} {f : π → State → σ} {g : State → σ}
    (h : CallAlike inside behind c d)
    (hi : ∀ p s w, inside s.work w p → R (f p s) (f p (s.setWork w)))
    (hb : ∀ s w, behind s.work w → R (g s) (g (s.setWork w))) : R (callProc c f g) (callProc d f g) := by
  obtain ⟨w, rfl, hok⟩ := h
  obtain ⟨_ | p, s⟩ := c
  · exact hb s w (hok.2 rfl)
  · exact hi p s w (hok.1 p rfl)

end Calls

/-! The primitives: what they read and write does not hang on the working registers. -/

theorem answer_setWork (s : State) (w : Work) (r : Reg) :
    (s.setWork w).answer r = ((s.answer r).1, (s.answer r).2.setWork w) := by
  have henv : (s.setWork w).env = s.env := rfl
  unfold State.answer
  rw [henv]
  cases s.env.pop r <;> rfl

theorem answers_setWork (w : Work) (r : Reg) (n : Nat) (s : State) :
    State.answers r n (s.setWork w) = ((State.answers r n s).1, (State.answers r n s).2.setWork w) := by
  induction n generalizing s with
  | zero => rfl
  | succ n ih => simp only [State.answers, answer_setWork, ih]

theorem readByte_setWork (s : State) (w : Work) (r : Reg) :
    (s.setWork w).readByte r = ((s.readByte r).1, (s.readByte r).2.setWork w) := by
  simp only [State.readByte, answer_setWork]
  rfl

theorem readBurst_setWork (s : State) (w : Work) (r : Reg) (n : Byte) :
    (s.setWork w).readBurst r n = ((s.readBurst r n).1, (s.readBurst r n).2.setWork w) := by
  simp only [State.readBurst, answers_setWork]
  rfl

theorem bufByte_setWork (s : State) (w : Work) (i : Nat) :
    (s.setWork w).bufByte i = ((s.bufByte i).1, (s.bufByte i).2.setWork w) := by
  simp only [State.bufByte, setWork_bufDefined, setWork_buf]
  by_cases hi : i < s.bufDefined
  · simp only [hi, if_true]
    cases Memory.get s.buf i <;> rfl
  · simp only [hi, if_false]
    rfl

theorem memRead_setWork (w : Work) (n i : Nat) (s : State) :
    State.memRead i n (s.setWork w) = ((State.memRead i n s).1, (State.memRead i n s).2.setWork w) := by
  induction n generalizing i s with
  | zero => rfl
  | succ n ih => simp only [State.memRead, bufByte_setWork, ih]

theorem bufRead_setWork (s : State) (w : Work) (i n : Nat) :
    (s.setWork w).bufRead i n = (s.bufRead i n).setWork w := by
  simp only [State.bufRead, setWork_cfg, memRead_setWork]
  split <;> rfl

/-! BRINGUP and its procedures -/

theorem divprogStep_alike (p : DivPos) (s : State) (w : Work) :
    CallAlike (fun v w _ => Free v w) Free (divprogStep p s) (divprogStep p (s.setWork w)) := by
  cases p
  case dlabOff => exact callAlike_behind trivial
  all_goals exact callAlike_inside trivial

theorem rearmStep_alike (p : RearmPos) (s : State) (w : Work) :
    CallAlike (fun v w _ => Free v w) Free (rearmStep p s) (rearmStep p (s.setWork w)) := by
  cases p
  · exact callAlike_inside trivial
  · exact callAlike_behind trivial

theorem flushHead_alike {s : State} {v w : Work} (h : w.k = v.k) :
    CallAlike FlushAgree Free (flushHead (s.setWork v)) (flushHead (s.setWork w)) :=
  callAlike_ite (s := s.setWork v) (w := w) (by simp [flushAgain, h]) (callAlike_inside h) (callAlike_behind trivial)

theorem flushEnter_alike (s : State) (w : Work) : CallAlike FlushAgree Free (flushEnter s) (flushEnter (s.setWork w)) :=
  flushHead_alike (s := s) rfl

theorem flushStep_alike {p : FlushPos} {s : State} {w : Work} (h : FlushAgree s.work w p) :
    CallAlike FlushAgree Free (flushStep p s) (flushStep p (s.setWork w)) := by
  cases p with
  | poll =>
    simp only [flushStep, readByte_setWork]
    split
    · exact callAlike_behind trivial
    · exact callAlike_inside ⟨by simpa [FlushAgree] using h, rfl⟩
  | burst =>
    obtain ⟨hk, hn⟩ := h
    simp only [flushStep, setWork_work, hn, readBurst_setWork]
    exact flushHead_alike (s := (s.readBurst .fifo (lowByte s.work.n)).2) (by simp [hk])

theorem bringupAfterFlush_alike (q : Pass) (s : State) (w : Work) :
    CallAlike BringupAgree Free (bringupAfterFlush q s) (bringupAfterFlush q (s.setWork w)) := by
  cases q
  · exact callAlike_inside trivial
  · exact callAlike_behind trivial

theorem bringupFlush_alike (q : Pass) (s : State) (w : Work) :
    CallAlike BringupAgree Free (bringupFlush q s) (bringupFlush q (s.setWork w)) :=
  (flushEnter_alike s w).elim (R := CallAlike BringupAgree Free) (fun _ _ _ h => callAlike_inside h)
    (fun t w _ => bringupAfterFlush_alike q t w)

theorem bringupStep_alike {p : BringupPos} {s : State} {w : Work} (h : BringupAgree s.work w p) :
    CallAlike BringupAgree Free (bringupStep p s) (bringupStep p (s.setWork w)) := by
  cases p with
  | disable | fifoOff | sleepOff | pins | settleFirst => exact callAlike_inside trivial
  | divprog q d =>
    simp only [bringupStep]
    exact (divprogStep_alike d s w).elim (R := CallAlike BringupAgree Free) (fun _ _ _ _ => callAlike_inside trivial)
      (fun _ _ _ => callAlike_inside trivial)
  | rearm q r =>
    simp only [bringupStep]
    refine (rearmStep_alike r s w).elim (R := CallAlike BringupAgree Free) (fun _ _ _ _ => callAlike_inside trivial)
      (fun t w _ => ?_)
    cases q
    · exact callAlike_inside trivial
    · exact bringupFlush_alike .second t w
  | settleSecond => exact bringupFlush_alike .first (s.spin s.cfg.settleSpin) w
  | flush q f =>
    exact (flushStep_alike h).elim (R := CallAlike BringupAgree Free) (fun _ _ _ h => callAlike_inside h)
      (fun t w _ => bringupAfterFlush_alike q t w)

/-! TXQUEUE and TXDRAIN -/

theorem txqueueHead_alike {s : State} {v w : Work} (h : TxAgree v w .poll) :
    CallAlike TxAgree Free (txqueueHead (s.setWork v)) (txqueueHead (s.setWork w)) :=
  callAlike_ite (s := s.setWork v) (w := w) (by simp [queueAgain, h.2]) (callAlike_inside h) (callAlike_behind trivial)

theorem txqueueEnter_alike (len : Byte) (s : State) (w : Work) :
    CallAlike TxAgree Free (txqueueEnter len s) (txqueueEnter len (s.setWork w)) := by
  unfold txqueueEnter
  exact CallAlike.ite Iff.rfl (callAlike_inside trivial) (txqueueHead_alike (s := s) ⟨rfl, rfl⟩)

theorem txqueueStep_alike {len : Byte} {payload : List Byte} {p : TxPos} {s : State} {w : Work} (h : TxAgree s.work w p) :
    CallAlike TxAgree Free (txqueueStep len payload p s) (txqueueStep len payload p (s.setWork w)) := by
  cases p with
  | single => exact callAlike_behind trivial
  | poll =>
    obtain ⟨ho, hr⟩ := h
    simp only [txqueueStep, readByte_setWork]
    split
    · exact txqueueHead_alike (s := (s.readByte .txlvl).2) (by simp [TxAgree, ho, hr])
    · exact callAlike_inside (by simp [TxAgree, ho, hr])
  | burst =>
    obtain ⟨ho, hr, hn⟩ := h
    simp only [txqueueStep, setWork_work, ho, hn]
    exact txqueueHead_alike (s := s.writeBurst .fifo _) (by simp [TxAgree, ho, hr, hn])

theorem txdrainStep_alike (s : State) (w : Work) :
    CallAlike (fun v w _ => Free v w) Free (txdrainStep s) (txdrainStep (s.setWork w)) := by
  simp only [txdrainStep, readByte_setWork]
  exact callAlike_ite (s := (s.readByte .lsr).2.setWork _) Iff.rfl (callAlike_behind trivial) (callAlike_inside trivial)

/-! RXWAIT -/

theorem rxwaitEnter_alike (budget : Nat) (s : State) (w : Work) :
    CallAlike RxAgree CountAgree (rxwaitEnter budget s) (rxwaitEnter budget (s.setWork w)) :=
  callAlike_inside ⟨rfl, rfl, rfl⟩

theorem rxwaitReturn_alike {s : State} {v w : Work} (h : w.total = v.total) :
    CallAlike RxAgree CountAgree (rxwaitReturn (s.setWork v)) (rxwaitReturn (s.setWork w)) :=
  callAlike_behind h

theorem rxwaitPolled_alike {v : Byte} {s : State} {w : Work} (h : RxAgree s.work w .poll) :
    CallAlike RxAgree CountAgree (rxwaitPolled v s) (rxwaitPolled v (s.setWork w)) := by
  obtain ⟨ht, hrb, hiw⟩ := h
  unfold rxwaitPolled
  exact CallAlike.ite (by simp [waitAgain, hrb, hiw]) (callAlike_inside ⟨ht, hrb, hiw⟩)
    (CallAlike.ite (by simp [waitExpired, hrb, hiw]) (rxwaitReturn_alike (s := s) ht) (callAlike_inside ⟨ht, rfl⟩))

theorem rxwaitStored_alike {s : State} {w : Work} (ht : w.total = s.work.total) (hrb : w.rb = s.work.rb)
    (hn : w.n = s.work.n) : CallAlike RxAgree CountAgree (rxwaitStored s) (rxwaitStored (s.setWork w)) := by
  unfold rxwaitStored
  refine CallAlike.ite (by simp [bufferFull, ht, hn]) (rxwaitReturn_alike (s := s) ?_) (callAlike_inside ⟨?_, hrb, rfl⟩) <;>
    simp [ht, hn]

theorem rxwaitStep_alike {p : RxPos} {s : State} {w : Work} {c : Option RxPos × State} (h : RxAgree s.work w p)
    (hc : rxwaitStep p s = .next c) :
    ∃ d, rxwaitStep p (s.setWork w) = .next d ∧ CallAlike RxAgree CountAgree c d := by
  cases p with
  | poll =>
    cases hc
    refine ⟨_, rfl, ?_⟩
    rw [readByte_setWork]
    exact rxwaitPolled_alike (by simpa [RxAgree] using h)
  | pause =>
    cases hc
    obtain ⟨ht, hrb, hiw⟩ := h
    exact ⟨_, rfl, callAlike_inside ⟨ht, hrb, by simp [hiw]⟩⟩
  | reread =>
    cases hc
    obtain ⟨ht, hrb⟩ := h
    refine ⟨_, rfl, ?_⟩
    rw [readByte_setWork]
    exact callAlike_inside (by simp [RxAgree, rxwaitLevel, ht, hrb])
  | burst =>
    cases hc
    obtain ⟨ht, hrb, hn⟩ := h
    refine ⟨_, rfl, ?_⟩
    simp only [setWork_work, hn, readBurst_setWork]
    exact callAlike_inside (by simp [RxAgree, ht, hrb])
  | store =>
    obtain ⟨ht, hrb, hn, hbs⟩ := h
    rcases rxwaitStep_cases hc with ⟨hne, -⟩ | ⟨-, hfit, hlen, rfl⟩
    · exact absurd rfl hne
    · refine ⟨rxwaitStored (s.stored.setWork w), ?_, rxwaitStored_alike ht hrb hn⟩
      simp only [rxwaitStep_store, setWork_work, setWork_cfg, ht, hn, hbs]
      exact if_pos ⟨hfit, hlen⟩

/-! The commands -/

theorem alike_goTo {s : State} {w : Work} {r : Running} (h : RunningAgree s.work w r) :
    Alike (s.goTo r) ((s.setWork w).goTo r) := ⟨w, rfl, h⟩

theorem alike_complete (s : State) (w : Work) (c : Completion) : Alike (s.complete c) ((s.setWork w).complete c) :=
  ⟨w, rfl, trivial⟩

theorem initStep_alike {p : InitPos} {s : State} {w : Work} (h : RunningAgree s.work w (.init p)) :
    Alike (initStep p s) (initStep p (s.setWork w)) := by
  cases p with
  | bringup b =>
    simp only [initStep]
    exact (bringupStep_alike h).elim (R := Alike) (fun _ _ _ h => alike_goTo h) (fun _ _ _ => alike_goTo trivial)
  | finish => exact alike_complete _ w _

theorem beginStep_alike {p : BeginPos} {s : State} {w : Work} (h : RunningAgree s.work w (.beginSession p)) :
    Alike (beginStep p s) (beginStep p (s.setWork w)) := by
  cases p with
  | bringup b =>
    simp only [beginStep]
    exact (bringupStep_alike h).elim (R := Alike) (fun _ _ _ h => alike_goTo h)
      (fun t w _ => alike_goTo (s := { t with initialized := true }) (w := w) trivial)
  | sleepOff | pins | fifo => exact alike_goTo trivial
  | finish => exact alike_complete _ w _

theorem endStep_alike (p : EndPos) (s : State) (w : Work) : Alike (endStep p s) (endStep p (s.setWork w)) := by
  cases p with
  | fifo | sleepOn | pins => exact alike_goTo trivial
  | finish => exact alike_complete _ w _

theorem sendStep_alike {len : Byte} {payload : List Byte} {p : SendPos} {s t : State} {w : Work}
    (h : SendAgree s.work w p) (ht : sendStep len payload p s = .next t) :
    ∃ u, sendStep len payload p (s.setWork w) = .next u ∧ Alike t u := by
  cases p with
  | txOn =>
    cases ht
    exact ⟨_, rfl, (txqueueEnter_alike len (s.writeByte .efcr s.cfg.efcrTxOnly) w).elim (R := Alike)
      (fun _ _ _ h => alike_goTo h) (fun _ _ _ => alike_goTo trivial)⟩
  | queue q =>
    cases ht
    exact ⟨_, rfl, (txqueueStep_alike h).elim (R := Alike) (fun _ _ _ h => alike_goTo h)
      (fun _ _ _ => alike_goTo trivial)⟩
  | drain =>
    cases ht
    exact ⟨_, rfl, (txdrainStep_alike s w).elim (R := Alike) (fun _ _ _ _ => alike_goTo trivial)
      (fun _ _ _ => alike_goTo trivial)⟩
  | rxOn =>
    cases ht
    exact ⟨_, rfl, (rxwaitEnter_alike s.cfg.rxLongWait (s.writeByte .efcr s.cfg.efcrRxOnly) w).elim (R := Alike)
      (fun _ _ _ h => alike_goTo h) (fun _ _ h => alike_goTo h)⟩
  | listen q =>
    obtain ⟨c, hc, rfl⟩ := mapNext_eq_next ht
    obtain ⟨d, hd, hcd⟩ := rxwaitStep_alike h hc
    refine ⟨_, by rw [sendStep, hd]; rfl, hcd.elim (R := Alike) (fun _ _ _ h => alike_goTo h) (fun _ _ h => alike_goTo h)⟩
  | finish =>
    cases ht
    have hcount : w.count = s.work.count := h
    refine ⟨_, rfl, ?_⟩
    simp only [setWork_work, hcount]
    exact alike_complete _ w _

theorem recvStep_alike {p : RecvPos} {s t : State} {w : Work} (h : RecvAgree s.work w p)
    (ht : recvStep p s = .next t) : ∃ u, recvStep p (s.setWork w) = .next u ∧ Alike t u := by
  cases p with
  | cached => cases ht; exact ⟨_, rfl, alike_complete _ w _⟩
  | rearm q =>
    cases ht
    refine ⟨_, rfl, (rearmStep_alike q s w).elim (R := Alike) (fun _ _ _ _ => alike_goTo trivial) (fun u w _ => ?_)⟩
    exact (rxwaitEnter_alike s.cfg.rxMaxWait u w).elim (R := Alike) (fun _ _ _ h => alike_goTo h)
      (fun _ _ h => alike_goTo h)
  | listen q =>
    obtain ⟨c, hc, rfl⟩ := mapNext_eq_next ht
    obtain ⟨d, hd, hcd⟩ := rxwaitStep_alike h hc
    refine ⟨_, by rw [recvStep, hd]; rfl, hcd.elim (R := Alike) (fun _ _ _ h => alike_goTo h) (fun _ _ h => alike_goTo h)⟩
  | finish =>
    cases ht
    have hcount : w.count = s.work.count := h
    refine ⟨_, rfl, ?_⟩
    simp only [setWork_work, hcount]
    exact alike_complete _ w _

theorem runningStep_alike {r : Running} {s t : State} {w : Work} (h : RunningAgree s.work w r)
    (ht : runningStep r s = .next t) : ∃ u, runningStep r (s.setWork w) = .next u ∧ Alike t u := by
  cases r with
  | init p => cases ht; exact ⟨_, rfl, initStep_alike h⟩
  | beginSession p => cases ht; exact ⟨_, rfl, beginStep_alike h⟩
  | endSession p => cases ht; exact ⟨_, rfl, endStep_alike p s w⟩
  | send len payload p => exact sendStep_alike h ht
  | recv p => exact recvStep_alike h ht

/-! Steps and runs -/

/-- No command reads a working register at its first position (R29). -/
theorem entry_agree (v w : Work) (i : Instr) (s : State) : RunningAgree v w (entry i s) := by
  cases i with
  | init | endSession | send => trivial
  | beginSession => cases hi : s.initialized <;> simp [entry, beginEntry, RunningAgree, BringupAgree, hi]
  | recv => by_cases hp : s.pending = 0#8 <;> simp [entry, recvEntry, RunningAgree, RecvAgree, hp]

theorem exec_idle_alike {s t : State} (w : Work) {i : Instr} (hp : s.phase = .idle) (h : exec i s = .next t) :
    ∃ u, exec i (s.setWork w) = .next u ∧ Alike t u := by
  rw [exec_idle i hp] at h
  cases h
  have hentry : entry i (s.setWork w) = entry i s := by cases i <;> rfl
  have hadmitted : admitted i (s.setWork w) = admitted i s := by cases i <;> rfl
  refine ⟨_, exec_idle i (s := s.setWork w) hp, ?_⟩
  rw [hentry, hadmitted]
  split
  · exact alike_goTo (entry_agree _ _ i s)
  · exact ⟨w, rfl, trivial⟩

theorem bufRead_alike (s : State) (w : Work) (i n : Nat) (hp : s.phase = .idle) :
    Alike (s.bufRead i n) ((s.setWork w).bufRead i n) := by
  refine ⟨w, bufRead_setWork s w i n, ?_⟩
  rcases bufRead_cases s i n with ⟨bytes, d, e⟩ | e <;> rw [e]
  · show PhaseAgree _ _ s.phase
    rw [hp]
    trivial
  · trivial

/-- Two blocks alike make the same step. -/
theorem step_alike {s t : State} {w : Work} (h : PhaseAgree s.work w s.phase) (hs : step s = .next t) :
    ∃ u, step (s.setWork w) = .next u ∧ Alike t u := by
  obtain hp | ⟨r, hp⟩ | hp := phase_cases s
  · have hp' : (s.setWork w).phase = .idle := hp
    cases hq : s.requests with
    | nil =>
      rw [step_idle_wait hp hq] at hs
      cases hs
      exact ⟨_, step_idle_wait hp' hq, w, rfl, h⟩
    | cons q rest =>
      have hq' : (s.setWork w).requests = q :: rest := hq
      cases q with
      | bufRead i n =>
        rw [step_idle_bufRead hp hq] at hs
        cases hs
        exact ⟨_, step_idle_bufRead hp' hq', bufRead_alike { s with requests := rest } w i n hp⟩
      | command c =>
        cases hd : decode s.cfg.rxCapacity c with
        | error e =>
          rw [step_idle_reject hp hq hd] at hs
          cases hs
          exact ⟨_, step_idle_reject hp' hq' hd, w, rfl, trivial⟩
        | ok i =>
          rw [step_idle_command hp hq hd] at hs
          obtain ⟨u, hu, halike⟩ := exec_idle_alike (s := { s with requests := rest }) w hp hs
          exact ⟨u, (step_idle_command hp' hq' hd).trans hu, halike⟩
  · rw [step_busy hp] at hs
    obtain ⟨u, hu, halike⟩ := runningStep_alike (by simpa [hp, PhaseAgree] using h) hs
    exact ⟨u, (step_busy (s := s.setWork w) hp).trans hu, halike⟩
  · rw [step_halted hp] at hs
    cases hs
    exact ⟨_, step_halted (s := s.setWork w) hp, w, rfl, h⟩

/-- So do runs of any length: they end in blocks that differ in working registers alone. -/
theorem stepN_alike (n : Nat) {s t : State} {w : Work} (h : PhaseAgree s.work w s.phase) (hs : stepN n s = .next t) :
    ∃ w', stepN n (s.setWork w) = .next (t.setWork w') := by
  induction n generalizing s w with
  | zero => cases hs; exact ⟨w, rfl⟩
  | succ n ih =>
    rw [stepN] at hs
    split at hs
    · next u hu =>
      obtain ⟨_, hu', w', rfl, hw'⟩ := step_alike h hu
      rw [stepN, hu']
      exact ih hw' hs
    · cases hs
    · cases hs

/-- Settles O23: in IDLE no working register is live, so the two runs stay alike. -/
theorem workingRegistersAreNeverReadBeforeWritten : Obligations.WorkingRegistersAreNeverReadBeforeWritten := by
  unfold Obligations.WorkingRegistersAreNeverReadBeforeWritten
  intro n s t s' t' hidle hst hs ht
  have hlive : PhaseAgree s.work t.work s.phase := by rw [hidle]; trivial
  obtain ⟨w, hw⟩ := stepN_alike n hlive hs
  have hst : t = s.setWork t.work := hst
  rw [hst, hw] at ht
  cases ht
  exact ⟨rfl, rfl, rfl, rfl, rfl, rfl, rfl, rfl, rfl⟩

end Sys2Proof.Machine
end

section
/-! From the invariant every step answers (20_memory.md R57, R58; 60_exceptions.md R144): RXWAIT's store is the one step that
can stop the model, and at its position the burst fits the buffer (R132). -/

namespace Sys2Proof.Machine

theorem rxwaitStep_answers {p : RxPos} {s : State} (h : RxOk s p) : ∃ c, rxwaitStep p s = .next c := by
  by_cases hp : p = .store
  · subst hp
    obtain ⟨-, hfit, hlen, -⟩ := h
    exact ⟨_, (rxwaitStep_store s).trans (if_pos ⟨hfit, hlen⟩)⟩
  · obtain ⟨c, hc, -⟩ := rxwaitStep_quiet p s hp
    exact ⟨c, hc⟩

theorem mapNext_answers {α β : Type} {o : Host.Outcome α Fault Refusal} (f : α → β) (h : ∃ a, o = .next a) :
    ∃ b, mapNext f o = .next b := by
  obtain ⟨a, rfl⟩ := h
  exact ⟨f a, rfl⟩

theorem runningStep_answers {r : Running} {s : State} (h : RunningOk s r) : ∃ t, runningStep r s = .next t := by
  cases r with
  | init | beginSession | endSession => exact ⟨_, rfl⟩
  | send len payload p =>
    obtain ⟨-, -, hok⟩ := h
    cases p with
    | listen q => exact mapNext_answers _ (rxwaitStep_answers hok)
    | txOn | queue | drain | rxOn | finish => exact ⟨_, rfl⟩
  | recv p =>
    obtain ⟨-, hok⟩ := h
    cases p with
    | listen q =>
      obtain ⟨-, hrx⟩ := hok
      exact mapNext_answers _ (rxwaitStep_answers hrx)
    | cached | rearm | finish => exact ⟨_, rfl⟩

/-- In IDLE a step always answers: what is refused there is a fault of the block, a next state (R140, R144). -/
theorem step_idle_answers {s : State} (hp : s.phase = .idle) : ∃ t, step s = .next t := by
  cases hq : s.requests with
  | nil => exact ⟨_, step_idle_wait hp hq⟩
  | cons q rest =>
    cases q with
    | bufRead i n => exact ⟨_, step_idle_bufRead hp hq⟩
    | command c =>
      cases hd : decode s.cfg.rxCapacity c with
      | error e => exact ⟨_, step_idle_reject hp hq hd⟩
      | ok i => exact ⟨_, (step_idle_command hp hq hd).trans (exec_idle i (s := { s with requests := rest }) hp)⟩

/-- Settles O14: IDLE and HALTED always answer, and a running command does where the condition of its position holds. -/
theorem everyStepAnswersANextState : Obligations.EveryStepAnswersANextState := by
  unfold Obligations.EveryStepAnswersANextState
  intro s h
  obtain hp | ⟨r, hp⟩ | hp := phase_cases s
  · exact step_idle_answers hp
  · obtain ⟨-, -, hok⟩ : PhaseOk s (.busy r) := hp ▸ h.phase
    rw [step_busy hp]
    exact runningStep_answers hok
  · exact ⟨s, step_halted hp⟩

end Sys2Proof.Machine
end

section
/-! What every step does to the parameters and to the bus trace (00_scope.md R10, R20; 20_memory.md R63, R68;
30_encoding.md R104(a)): the parameters stay, and the trace grows by one event at most. -/

namespace Sys2Proof.Machine

theorem Effect.cfg {r : Running} {s t : State} (he : Effect s r t) : t.cfg = s.cfg := by
  cases he with
  | quiet _ _ u hq => exact hq.cfg
  | broughtUp b u hq => exact hq.cfg
  | stored i inside behind r' u hl hq => exact hq.cfg
  | initDone | beginDone | endDone | sendDone | recvCached | recvDone => rfl

theorem Effect.trace {r : Running} {s t : State} (he : Effect s r t) :
    t.trace = s.trace ∨ ∃ e, t.trace = s.trace ++ [e] := by
  cases he with
  | quiet _ _ u hq => exact hq.trace
  | broughtUp b u hq => exact hq.trace
  | stored i inside behind r' u hl hq => exact hq.trace
  | initDone | beginDone | endDone | sendDone | recvCached | recvDone => exact .inl rfl

theorem Taken.cfg {s t : State} (ht : Taken s t) : t.cfg = s.cfg := by
  cases ht <;> rfl

/-- What IDLE does with a request it does without the bus (R140). -/
theorem Taken.trace {s t : State} (ht : Taken s t) : t.trace = s.trace := by
  cases ht <;> rfl

/-- Settles O18: a step in IDLE or HALTED adds no event, and the effects of a running command's step add at most one. -/
theorem oneStepIssuesAtMostOneBusEvent : Obligations.OneStepIssuesAtMostOneBusEvent := by
  unfold Obligations.OneStepIssuesAtMostOneBusEvent
  intro s t hs
  rcases step_cases hs with rfl | ⟨-, rest, ht⟩ | ⟨r, -, hr⟩
  · exact ⟨rfl, .inl rfl⟩
  · exact ⟨ht.cfg, .inl ht.trace⟩
  · have he := runningStep_effect hr
    exact ⟨he.cfg, he.trace⟩

end Sys2Proof.Machine
end

section
/-! The one event of each position (40_bringup.md, 41_session.md, 42_transmit.md, 43_receive.md): which access the next
primitive of a running command is, so that a step's new bus event is read off its position (10_state.md R32, R57). -/

namespace Sys2Proof.Machine

/-- R106. -/
def DivPos.event (cfg : Params) : DivPos → BusEvent
  | .dlabOn => .wr Reg.lcr.offset cfg.lcrDlab
  | .low => .wr Reg.dll.offset (dllValue cfg)
  | .high => .wr Reg.dlh.offset (dlhValue cfg)
  | .dlabOff => .wr Reg.lcr.offset cfg.lcr8n1

/-- R107. -/
def RearmPos.event (cfg : Params) : RearmPos → BusEvent
  | .fifo => .wr Reg.fcr.offset cfg.fcrResetEnable
  | .receiver => .wr Reg.efcr.offset cfg.efcrRxOnly

/-- The burst read that a listening or flushing block asks for with its working register `n` (R55). -/
def State.burstEvent (s : State) : BusEvent :=
  .rb Reg.fifo.offset (lowByte s.work.n) (State.answers .fifo (lowByte s.work.n).toNat s).1

/-- One read of a register, with the answer the environment has ready (R53). -/
def State.readEvent (s : State) (r : Reg) : BusEvent := .rd r.offset (s.answer r).1

/-- R108. -/
def FlushPos.event (s : State) : FlushPos → BusEvent
  | .poll => s.readEvent .rxlvl
  | .burst => s.burstEvent

/-- R105; its two settle delays are no bus primitive. -/
def BringupPos.event (s : State) : BringupPos → Option BusEvent
  | .disable => some (.wr Reg.efcr.offset s.cfg.efcrBothDisable)
  | .fifoOff => some (.wr Reg.fcr.offset fcrDisable)
  | .sleepOff => some (.wr Reg.ier.offset s.cfg.ierSleepOff)
  | .pins => some (.wr Reg.iostate.offset iostateBringup)
  | .settleFirst | .settleSecond => none
  | .divprog _ d => some (d.event s.cfg)
  | .rearm _ r => some (r.event s.cfg)
  | .flush _ f => some (f.event s)

/-- R120. -/
def TxPos.event (len : Byte) (payload : List Byte) (s : State) : TxPos → BusEvent
  | .single => .wb Reg.fifo.offset (payloadSlice payload 0#16 (zext16 len))
  | .poll => s.readEvent .txlvl
  | .burst => .wb Reg.fifo.offset (payloadSlice payload s.work.offset s.work.n)

/-- R125; its pause and its store are no bus primitive. -/
def RxPos.event (s : State) : RxPos → Option BusEvent
  | .poll | .reread => some (s.readEvent .rxlvl)
  | .burst => some s.burstEvent
  | .pause | .store => none

/-- The event of the primitive a running command is about to issue, if it is a bus primitive. -/
def Running.event (s : State) : Running → Option BusEvent
  | .init (.bringup b) | .beginSession (.bringup b) => b.event s
  | .beginSession .sleepOff => some (.wr Reg.ier.offset s.cfg.ierSleepOff)
  | .beginSession .pins => some (.wr Reg.iostate.offset iostateActive)
  | .beginSession .fifo => some (.wr Reg.fcr.offset s.cfg.fcrResetEnable)
  | .endSession .fifo => some (.wr Reg.fcr.offset fcrResetDisable)
  | .endSession .sleepOn => some (.wr Reg.ier.offset s.cfg.ierSleepOn)
  | .endSession .pins => some (.wr Reg.iostate.offset iostateIdle)
  | .send _ _ .txOn => some (.wr Reg.efcr.offset s.cfg.efcrTxOnly)
  | .send len payload (.queue q) => some (q.event len payload s)
  | .send _ _ .drain => some (s.readEvent .lsr)
  | .send _ _ .rxOn => some (.wr Reg.efcr.offset s.cfg.efcrRxOnly)
  | .recv (.rearm r) => some (r.event s.cfg)
  | .send _ _ (.listen q) | .recv (.listen q) => q.event s
  | .init .finish | .beginSession .finish | .endSession .finish | .send _ _ .finish | .recv .cached
  | .recv .finish => none

/-- A call that goes on in either way without the bus leaves the trace the procedure left; `left` picks the state out of
the call's result (`id` in a command, `Prod.snd` in a procedure). -/
theorem callProc_trace {π σ : Type} (left : σ → State) (c : Option π × State) {inside : π → State → σ}
    {behind : State → σ} (hi : ∀ p, (left (inside p c.2)).trace = c.2.trace)
    (hb : (left (behind c.2)).trace = c.2.trace) : (left (callProc c inside behind)).trace = c.2.trace :=
  callProc_ind (P := fun r => (left r).trace = c.2.trace) c inside behind hi hb

theorem divprogStep_trace (p : DivPos) (s : State) : (divprogStep p s).2.trace = s.trace ++ [p.event s.cfg] := by
  cases p <;> rfl

theorem rearmStep_trace (p : RearmPos) (s : State) : (rearmStep p s).2.trace = s.trace ++ [p.event s.cfg] := by
  cases p <;> rfl

theorem flushStep_trace (p : FlushPos) (s : State) : (flushStep p s).2.trace = s.trace ++ [p.event s] := by
  cases p with
  | poll =>
    simp only [flushStep]
    split <;> exact readByte_trace s .rxlvl
  | burst => exact readBurst_trace s .fifo _

theorem bringupFlush_trace (q : Pass) (s : State) : (bringupFlush q s).2.trace = s.trace := by
  rw [bringupFlush_state]
  rfl

theorem bringupStep_trace (p : BringupPos) (s : State) : (bringupStep p s).2.trace = s.trace ++ (p.event s).toList := by
  cases p with
  | disable | fifoOff | sleepOff | pins => rfl
  | settleFirst => exact (List.append_nil _).symm
  | settleSecond => exact (bringupFlush_trace .first _).trans (List.append_nil _).symm
  | divprog q d => exact (callProc_trace Prod.snd _ (fun _ => rfl) rfl).trans (divprogStep_trace d s)
  | rearm q r =>
    refine (callProc_trace Prod.snd (rearmStep r s) (fun _ => rfl) ?_).trans (rearmStep_trace r s)
    cases q
    · rfl
    · exact bringupFlush_trace .second _
  | flush q f =>
    refine (callProc_trace Prod.snd (flushStep f s) (fun _ => rfl) ?_).trans (flushStep_trace f s)
    rw [bringupAfterFlush_state]

theorem txqueueEnter_trace (len : Byte) (s : State) : (txqueueEnter len s).2.trace = s.trace := by
  unfold txqueueEnter
  split <;> rfl

theorem txqueueStep_trace (len : Byte) (payload : List Byte) (p : TxPos) (s : State) :
    (txqueueStep len payload p s).2.trace = s.trace ++ [p.event len payload s] := by
  cases p with
  | single => rfl
  | poll =>
    simp only [txqueueStep]
    split <;> exact readByte_trace s .txlvl
  | burst => rfl

theorem rxwaitPolled_trace (v : Byte) (s : State) : (rxwaitPolled v s).2.trace = s.trace := by
  rcases rxwaitPolled_cases v s with ⟨-, e⟩ | ⟨-, -, e⟩ | ⟨-, -, e⟩ <;> rw [e] <;> rfl

theorem rxwaitStored_trace (s : State) : (rxwaitStored s).2.trace = s.trace := by
  rcases rxwaitStored_cases s with ⟨-, e⟩ | ⟨-, e⟩ <;> rw [e] <;> rfl

theorem rxwaitStep_trace {p : RxPos} {s : State} {c : Option RxPos × State} (h : rxwaitStep p s = .next c) :
    c.2.trace = s.trace ++ (p.event s).toList := by
  cases p with
  | poll => cases h; exact (rxwaitPolled_trace _ _).trans (readByte_trace s .rxlvl)
  | pause => cases h; exact (List.append_nil _).symm
  | reread => cases h; exact readByte_trace s .rxlvl
  | burst => cases h; exact readBurst_trace s .fifo _
  | store =>
    rcases rxwaitStep_cases h with ⟨hne, -⟩ | ⟨-, -, -, rfl⟩
    · exact absurd rfl hne
    · exact (rxwaitStored_trace _).trans (List.append_nil _).symm

/-- A step inside RXWAIT, in either of the commands that run it. -/
theorem listenStep_trace {q : RxPos} {s t : State} {inside : RxPos → Running} {behind : Running}
    (h : mapNext (fun c => callProc c (fun p u => u.goTo (inside p)) (fun u => u.goTo behind)) (rxwaitStep q s) = .next t) :
    t.trace = s.trace ++ (q.event s).toList := by
  obtain ⟨c, hc, rfl⟩ := mapNext_eq_next h
  exact (callProc_trace id c (fun _ => rfl) rfl).trans (rxwaitStep_trace hc)

theorem initStep_trace (p : InitPos) (s : State) :
    (initStep p s).trace = s.trace ++ ((Running.init p).event s).toList := by
  cases p with
  | bringup b => exact (callProc_trace id _ (fun _ => rfl) rfl).trans (bringupStep_trace b s)
  | finish => exact (List.append_nil _).symm

theorem beginStep_trace (p : BeginPos) (s : State) :
    (beginStep p s).trace = s.trace ++ ((Running.beginSession p).event s).toList := by
  cases p with
  | bringup b => exact (callProc_trace id _ (fun _ => rfl) rfl).trans (bringupStep_trace b s)
  | sleepOff | pins | fifo => rfl
  | finish => exact (List.append_nil _).symm

theorem endStep_trace (p : EndPos) (s : State) :
    (endStep p s).trace = s.trace ++ ((Running.endSession p).event s).toList := by
  cases p with
  | fifo | sleepOn | pins => rfl
  | finish => exact (List.append_nil _).symm

theorem sendStep_trace {len : Byte} {payload : List Byte} {p : SendPos} {s t : State}
    (h : sendStep len payload p s = .next t) : t.trace = s.trace ++ ((Running.send len payload p).event s).toList := by
  cases p with
  | listen q => exact listenStep_trace h
  | txOn => cases h; exact (callProc_trace id _ (fun _ => rfl) rfl).trans (txqueueEnter_trace len _)
  | queue q => cases h; exact (callProc_trace id _ (fun _ => rfl) rfl).trans (txqueueStep_trace len payload q s)
  | drain => cases h; exact (callProc_trace id (txdrainStep s) (fun _ => rfl) rfl).trans (readByte_trace s .lsr)
  | rxOn => cases h; rfl
  | finish => cases h; exact (List.append_nil _).symm

theorem recvStep_trace {p : RecvPos} {s t : State} (h : recvStep p s = .next t) :
    t.trace = s.trace ++ ((Running.recv p).event s).toList := by
  cases p with
  | listen q => exact listenStep_trace h
  | rearm q => cases h; exact (callProc_trace id (rearmStep q s) (fun _ => rfl) rfl).trans (rearmStep_trace q s)
  | cached | finish => cases h; exact (List.append_nil _).symm

/-- A running command's step adds the event of its position to the bus trace, and nothing else. -/
theorem runningStep_trace {r : Running} {s t : State} (h : runningStep r s = .next t) :
    t.trace = s.trace ++ (r.event s).toList := by
  cases r with
  | init p => cases h; exact initStep_trace p s
  | beginSession p => cases h; exact beginStep_trace p s
  | endSession p => cases h; exact endStep_trace p s
  | send len payload p => exact sendStep_trace h
  | recv p => exact recvStep_trace h

end Sys2Proof.Machine
end

section
/-! DIVPROG's window (20_memory.md R66; 40_bringup.md R106; 70_reset_and_hazards.md R165): which step opens it, which are inside it, and
that a step outside it leaves the peripheral's divisor-latch-access bit and the divisor bytes alone. -/

namespace Sys2Proof.Machine

/-- An access that neither moves the divisor-latch-access bit nor means a divisor byte: no write to line-control or to 0x00,
and to 0x08 only a sleep code (R66, R135). -/
def Unlatched (p : Params) : BusEvent → Prop
  | .wr a v => a ≠ 0x18#8 ∧ a ≠ 0x00#8 ∧ (a = 0x08#8 → v = p.ierSleepOff ∨ v = p.ierSleepOn)
  | .rd _ _ | .rb _ _ _ | .wb _ _ => True

/-- What a step may issue, by whether the window is open before it and behind it. -/
inductive WindowStep (p : Params) : Bool → Bool → Option BusEvent → Prop where
  | opens : WindowStep p false true (some (.wr 0x18#8 p.lcrDlab))
  | low : WindowStep p true true (some (.wr 0x00#8 (p.divisor.extractLsb' 0 8)))
  | high : WindowStep p true true (some (.wr 0x08#8 (p.divisor.extractLsb' 8 8)))
  | closes : WindowStep p true false (some (.wr 0x18#8 p.lcr8n1))
  | outside (o : Option BusEvent) : (∀ e ∈ o, Unlatched p e) → WindowStep p false false o

theorem rearm_unlatched (p : Params) (r : RearmPos) : Unlatched p (r.event p) := by
  cases r <;> simp [RearmPos.event, Unlatched, Reg.offset]

theorem flush_unlatched (p : Params) (s : State) (f : FlushPos) : Unlatched p (f.event s) := by
  cases f <;> trivial

theorem txqueue_unlatched (p : Params) (len : Byte) (payload : List Byte) (s : State) (q : TxPos) :
    Unlatched p (q.event len payload s) := by
  cases q <;> trivial

theorem rxwait_unlatched (p : Params) (s : State) (q : RxPos) : ∀ e ∈ q.event s, Unlatched p e := by
  cases q <;> rintro _ ⟨⟩ <;> trivial

/-- A step of BRINGUP goes on outside the window, or returns. -/
def GoesOnOutside (c : Option BringupPos × State) : Prop := c.1.any bringupInWindow = false

theorem bringupAfterFlush_outside (q : Pass) (s : State) : GoesOnOutside (bringupAfterFlush q s) := by
  cases q <;> rfl

theorem bringupFlush_outside (q : Pass) (s : State) : GoesOnOutside (bringupFlush q s) :=
  callProc_ind (P := GoesOnOutside) _ _ _ (fun _ => rfl) (bringupAfterFlush_outside q _)

/-- BRINGUP opens the window with DIVPROG's first write and closes it with its last (R66, R106). -/
theorem bringupStep_window (p : BringupPos) (s : State) :
    WindowStep s.cfg (bringupInWindow p) ((bringupStep p s).1.any bringupInWindow) (p.event s) := by
  have outside (hgo : GoesOnOutside (bringupStep p s)) (he : ∀ e ∈ p.event s, Unlatched s.cfg e) :
      WindowStep s.cfg false ((bringupStep p s).1.any bringupInWindow) (p.event s) := hgo ▸ .outside _ he
  cases p with
  | disable | fifoOff | sleepOff | pins =>
    exact outside rfl (by simp [BringupPos.event, Unlatched, Reg.offset])
  | settleFirst => exact outside rfl nofun
  | settleSecond => exact outside (bringupFlush_outside .first _) nofun
  | divprog q d =>
    cases d with
    | dlabOn => exact .opens
    | low => exact .low
    | high => exact .high
    | dlabOff => exact .closes
  | rearm q r =>
    refine outside (callProc_ind (P := GoesOnOutside) (rearmStep r s) _ _ (fun _ => rfl) ?_)
      (by simpa [BringupPos.event] using rearm_unlatched s.cfg r)
    cases q
    · rfl
    · exact bringupFlush_outside .second _
  | flush q f =>
    exact outside (callProc_ind (P := GoesOnOutside) _ _ _ (fun _ => rfl) (bringupAfterFlush_outside q _))
      (by simpa [BringupPos.event] using flush_unlatched s.cfg s f)

/-- Where BRINGUP goes on, the window is open as BRINGUP says; behind it the window is shut. -/
theorem callProc_window {c : Option BringupPos × State} {inside : BringupPos → State → State} {behind : State → State}
    (hi : ∀ b u, inDlabWindow (inside b u).phase = bringupInWindow b)
    (hb : ∀ u, inDlabWindow (behind u).phase = false) :
    inDlabWindow (callProc c inside behind).phase = c.1.any bringupInWindow := by
  rcases callProc_cases c inside behind with ⟨b, hc, e⟩ | ⟨hc, e⟩ <;> rw [e, hc]
  · exact hi b _
  · exact hb _

theorem initStep_window (p : InitPos) (s : State) :
    WindowStep s.cfg (inDlabWindow (.busy (.init p))) (inDlabWindow (initStep p s).phase) ((Running.init p).event s) := by
  cases p with
  | finish => exact .outside _ nofun
  | bringup b =>
    rw [show inDlabWindow (initStep (.bringup b) s).phase = (bringupStep b s).1.any bringupInWindow from
      callProc_window (fun _ _ => rfl) (fun _ => rfl)]
    exact bringupStep_window b s

theorem beginStep_window (p : BeginPos) (s : State) :
    WindowStep s.cfg (inDlabWindow (.busy (.beginSession p))) (inDlabWindow (beginStep p s).phase)
      ((Running.beginSession p).event s) := by
  cases p with
  | bringup b =>
    rw [show inDlabWindow (beginStep (.bringup b) s).phase = (bringupStep b s).1.any bringupInWindow from
      callProc_window (fun _ _ => rfl) (fun _ => rfl)]
    exact bringupStep_window b s
  | sleepOff | pins | fifo => exact .outside _ (by simp [Running.event, Unlatched, Reg.offset])
  | finish => exact .outside _ nofun

/-- The commands that do not run BRINGUP (R105). -/
def skipsBringup : Instr → Bool
  | .init | .beginSession => false
  | .endSession | .send _ _ | .recv => true

theorem window_of_skipsBringup {r : Running} (h : skipsBringup r.instr = true) :
    inDlabWindow (.busy r) = false := by
  cases r with
  | init | beginSession => cases h
  | endSession | send | recv => rfl

theorem event_unlatched {r : Running} (h : skipsBringup r.instr = true) (s : State) :
    ∀ e ∈ r.event s, Unlatched s.cfg e := by
  cases r with
  | init => cases h
  | beginSession => cases h
  | endSession p => cases p <;> simp [Running.event, Unlatched, Reg.offset]
  | send len payload p =>
    cases p with
    | txOn | rxOn => simp [Running.event, Unlatched, Reg.offset]
    | queue q => simpa [Running.event] using txqueue_unlatched s.cfg len payload s q
    | drain => simp [Running.event, Unlatched, State.readEvent]
    | listen q => exact rxwait_unlatched s.cfg s q
    | finish => nofun
  | recv p =>
    cases p with
    | rearm r => simpa [Running.event] using rearm_unlatched s.cfg r
    | listen q => exact rxwait_unlatched s.cfg s q
    | cached | finish => nofun

theorem Effect.window {r : Running} {s t : State} (he : Effect s r t) (h : skipsBringup r.instr = true) :
    inDlabWindow t.phase = false := by
  cases he with
  | quiet _ r' u hq hi => exact window_of_skipsBringup (hi ▸ h)
  | broughtUp => rfl
  | stored i inside behind r' u hl hq hi => cases hl <;> exact window_of_skipsBringup (hi ▸ rfl)
  | initDone | beginDone | endDone | sendDone | recvCached | recvDone => rfl

theorem window_skipped {r : Running} {s t : State} (h : skipsBringup r.instr = true)
    (ht : runningStep r s = .next t) :
    WindowStep s.cfg (inDlabWindow (.busy r)) (inDlabWindow t.phase) (r.event s) := by
  rw [window_of_skipsBringup h, (runningStep_effect ht).window h]
  exact .outside _ (event_unlatched h s)

theorem runningStep_window {r : Running} {s t : State} (h : runningStep r s = .next t) :
    WindowStep s.cfg (inDlabWindow (.busy r)) (inDlabWindow t.phase) (r.event s) := by
  cases r with
  | init p => cases h; exact initStep_window p s
  | beginSession p => cases h; exact beginStep_window p s
  | endSession | send | recv => exact window_skipped rfl h

/-- Acting on a request opens no window: an accepted command starts before its first access (R32). -/
theorem Taken.window {s t : State} (ht : Taken s t) (hp : s.phase = .idle) : inDlabWindow t.phase = false := by
  cases ht with
  | faulted => rfl
  | answered => simp [hp, inDlabWindow]
  | accepted c i =>
    cases i with
    | init | endSession | send | recv => rfl
    | beginSession => cases hi : s.initialized <;> simp [entry, beginEntry, hi, inDlabWindow, bringupInWindow]

/-- A step that changes the block at all is a `WindowStep`, with the event it adds to the trace. -/
theorem step_window {s t : State} (h : step s = .next t) :
    t = s ∨ ∃ o, t.trace = s.trace ++ o.toList ∧ WindowStep s.cfg (inDlabWindow s.phase) (inDlabWindow t.phase) o := by
  rcases step_cases h with rfl | ⟨hp, rest, ht⟩ | ⟨r, hp, hr⟩
  · exact .inl rfl
  · refine .inr ⟨none, ht.trace.trans (List.append_nil _).symm, ?_⟩
    rw [hp, ht.window hp]
    exact .outside _ nofun
  · exact .inr ⟨r.event s, runningStep_trace hr, hp ▸ runningStep_window hr⟩

theorem dlabAfter_unlatched {p : Params} {e : BusEvent} (h : Unlatched p e) (es : List BusEvent) :
    dlabAfter p (es ++ [e]) = dlabAfter p es := by
  rw [dlabAfter_append]
  cases e with
  | wr a v => exact if_neg h.1
  | rd | rb | wb => rfl

/-- The window opens and shuts just where the trace says so, if the closing code differs from the opening one (R104(c)). -/
theorem WindowStep.tracks {p : Params} {before behind : Bool} {o : Option BusEvent} (h : WindowStep p before behind o)
    (hne : p.lcrDlab ≠ p.lcr8n1) {es : List BusEvent} (ht : dlabAfter p es = some true ↔ before = true) :
    dlabAfter p (es ++ o.toList) = some true ↔ behind = true := by
  cases h with
  | opens => simp [dlabAfter_append]
  | low | high => simpa [dlabAfter_append] using ht
  | closes => simpa [dlabAfter_append] using hne.symm
  | outside _ ho =>
    cases o with
    | none => simpa using ht
    | some e => exact (dlabAfter_unlatched (ho e rfl) es).symm ▸ ht

theorem WindowStep.event_inside {p : Params} {behind : Bool} {e : BusEvent}
    (h : WindowStep p true behind (some e)) :
    e = .wr 0x00#8 (p.divisor.extractLsb' 0 8) ∨ e = .wr 0x08#8 (p.divisor.extractLsb' 8 8) ∨
      e = .wr 0x18#8 p.lcr8n1 := by
  cases h with
  | low => exact .inl rfl
  | high => exact .inr (.inl rfl)
  | closes => exact .inr (.inr rfl)

theorem WindowStep.event_outside {p : Params} {behind : Bool} {e : BusEvent}
    (h : WindowStep p false behind (some e)) :
    (∀ v, e ≠ .wr 0x00#8 v) ∧ ∀ v, e = .wr 0x08#8 v → v = p.ierSleepOff ∨ v = p.ierSleepOn := by
  cases h with
  | opens => simp
  | outside _ ho =>
    have he := ho e rfl
    refine ⟨?_, ?_⟩ <;> rintro v rfl <;> obtain ⟨-, hdll, hier⟩ := he
    · exact hdll rfl
    · exact hier rfl

/-- Settles O20: the trace and the position agree before the step, so the position tells which accesses the step may issue,
and behind it they agree again. -/
theorem divisorWindowHoldsNoOtherAccess : Obligations.DivisorWindowHoldsNoOtherAccess := by
  unfold Obligations.DivisorWindowHoldsNoOtherAccess
  intro s t hne htracks hs
  unfold DlabTracks at htracks ⊢
  obtain ⟨hcfg, -⟩ := oneStepIssuesAtMostOneBusEvent s t hs
  rcases step_window hs with rfl | ⟨o, htrace, hw⟩
  · exact ⟨htracks, fun e he => by simp at he⟩
  · refine ⟨?_, fun e he => ?_⟩
    · rw [hcfg, htrace]
      exact hw.tracks hne htracks
    · obtain rfl : o = some e := by simpa [htrace] using he
      refine ⟨fun hopen => ?_, fun hshut => ?_⟩
      · rw [htracks.mp hopen] at hw
        exact hw.event_inside
      · rw [Bool.eq_false_of_not_eq_true (mt htracks.mpr hshut)] at hw
        exact hw.event_outside

end Sys2Proof.Machine
end

section
/-! The fields of a command word, the words of the five commands, and the decoder: one equation for each kind of opcode,
from which its inversion, the encoder's round trip and the rejections are read off (30_encoding.md R77 to R89). -/

namespace Sys2Proof.Machine

open Laws.EncodedFormat (opField_commandWord lenField_commandWord)

/-! The fields as numbers (R80). -/

theorem opField_toNat (w : Word) : (opField w).toNat = w.toNat / 256 := by
  simp only [opField, BitVec.extractLsb'_toNat, Nat.shiftRight_eq_div_pow]
  have := w.isLt
  omega

theorem lenField_toNat (w : Word) : (lenField w).toNat = w.toNat % 256 := by
  simp [lenField, BitVec.extractLsb'_toNat]

theorem commandWord_toNat (op len : Byte) : (commandWord op len).toNat = 256 * op.toNat + len.toNat := by
  have hop := opField_toNat (commandWord op len)
  have hlen := lenField_toNat (commandWord op len)
  rw [opField_commandWord] at hop
  rw [lenField_commandWord] at hlen
  omega

/-- A word is made up of its two fields. -/
theorem commandWord_fields (w : Word) : commandWord (opField w) (lenField w) = w := by
  apply BitVec.eq_of_toNat_eq
  rw [commandWord_toNat, opField_toNat, lenField_toNat]
  exact Nat.div_add_mod w.toNat 256

/-- Settles O2: a word is its opcode times 256 and its length operand. -/
theorem wordsOfTheOpcodeMap : Obligations.WordsOfTheOpcodeMap := by
  unfold Obligations.WordsOfTheOpcodeMap
  refine ⟨rfl, rfl, rfl, rfl, fun len payload => ?_⟩
  have hword : commandWord sendOpcode len = BitVec.ofNat 16 (0x0400 + len.toNat) := by
    apply BitVec.eq_of_toNat_eq
    have := len.isLt
    rw [commandWord_toNat, BitVec.toNat_ofNat, show sendOpcode.toNat = 4 from rfl]
    omega
  exact congrArg (Command.mk · payload) hword

/-! The decoder, by the kind of opcode it finds (R79, R139). -/

/-- The C0 rows of the opcode map, as opcodes of commands (R79). -/
theorem c0Command_eq_some {op : Byte} {i : Instr} (h : c0Command op = some i) :
    i.opcode = op ∧ i.lenOperand = 0#8 ∧ op ≠ sendOpcode := by
  unfold c0Command at h
  split_ifs at h <;> cases h <;> subst op <;> decide

theorem decode_sendOpcode {c : Command} (cap : Nat) (h : opField c.word = sendOpcode) :
    decode cap c =
      if cap < (lenField c.word).toNat then .error .lengthRange
      else if c.payload.length ≠ (lenField c.word).toNat then .error .payloadCount
      else .ok (.send (lenField c.word) c.payload) := by
  simp only [decode, if_pos h]

theorem decode_c0Opcode {c : Command} {i : Instr} (cap : Nat) (h : c0Command (opField c.word) = some i) :
    decode cap c = if lenField c.word ≠ 0#8 then .error .reservedOperand else .ok i := by
  obtain ⟨-, -, hne⟩ := c0Command_eq_some h
  simp only [decode, if_neg hne, h]

theorem decode_illegalOpcode {c : Command} (cap : Nat) (hne : opField c.word ≠ sendOpcode)
    (h : c0Command (opField c.word) = none) : decode cap c = .error .illegalOpcode := by
  simp only [decode, if_neg hne, h]

/-- A command decodes as a SEND of its payload, or as the C0 command of its opcode. -/
theorem decode_ok_cases {cap : Nat} {c : Command} {i : Instr} (h : decode cap c = .ok i) :
    (opField c.word = sendOpcode ∧ i = .send (lenField c.word) c.payload) ∨
    (c0Command (opField c.word) = some i ∧ lenField c.word = 0#8) := by
  by_cases hs : opField c.word = sendOpcode
  · rw [decode_sendOpcode cap hs] at h
    split_ifs at h
    cases h
    exact .inl ⟨hs, rfl⟩
  · cases hc : c0Command (opField c.word) with
    | none => rw [decode_illegalOpcode cap hs hc] at h; cases h
    | some j =>
      rw [decode_c0Opcode cap hc] at h
      split_ifs at h with hlen
      cases h
      exact .inr ⟨rfl, not_not.mp hlen⟩

theorem opField_encode (i : Instr) : opField (encode i).word = i.opcode := opField_commandWord i.opcode i.lenOperand

theorem lenField_encode (i : Instr) : lenField (encode i).word = i.lenOperand :=
  lenField_commandWord i.opcode i.lenOperand

theorem decode_encode_c0 {i : Instr} (cap : Nat) (h : c0Command i.opcode = some i) : decode cap (encode i) = .ok i := by
  obtain ⟨-, hoperand, -⟩ := c0Command_eq_some h
  have hlen : lenField (encode i).word = 0#8 := (lenField_encode i).trans hoperand
  rw [decode_c0Opcode cap (opField_encode i ▸ h), if_neg (not_not.mpr hlen)]

/-- A well-formed command is read back from its encoding (R77, R82). -/
theorem decode_encode {cap : Nat} {i : Instr} (h : i.wellFormed cap = true) : decode cap (encode i) = .ok i := by
  cases i with
  | init | beginSession | endSession | recv => exact decode_encode_c0 cap rfl
  | send len payload =>
    simp only [Instr.wellFormed, Instr.lengthInRange, Instr.payloadMatches, Bool.and_eq_true, decide_eq_true_eq] at h
    obtain ⟨hlen, hcount⟩ := h
    rw [decode_sendOpcode cap (opField_encode (.send len payload)), lenField_encode]
    exact (if_neg (Nat.not_lt.mpr hlen)).trans (if_neg (not_not.mpr hcount))

/-- The word of a decoded command is the word it was decoded from (R80). -/
theorem word_of_decode {cap : Nat} {c : Command} {i : Instr} (h : decode cap c = .ok i) : i.word = c.word := by
  have hfields : i.opcode = opField c.word ∧ i.lenOperand = lenField c.word := by
    rcases decode_ok_cases h with ⟨hs, rfl⟩ | ⟨hc, hlen⟩
    · exact ⟨hs.symm, rfl⟩
    · obtain ⟨hop, hoperand, -⟩ := c0Command_eq_some hc
      exact ⟨hop, hoperand.trans hlen.symm⟩
  obtain ⟨hop, hlen⟩ := hfields
  rw [Instr.word, hop, hlen, commandWord_fields]

/-- A decoded SEND carries the payload it was decoded from (R82). -/
theorem payload_of_decode {cap : Nat} {c : Command} {i : Instr} (h : decode cap c = .ok i)
    (hs : opField c.word = sendOpcode) : i.payloadBytes = c.payload := by
  rcases decode_ok_cases h with ⟨-, rfl⟩ | ⟨hc, -⟩
  · rfl
  · obtain ⟨-, -, hne⟩ := c0Command_eq_some hc
    exact absurd hs hne

/-- Settles O1: the round trip from the decoder's equations, and its converse from the decoder's inversion. -/
theorem decodeAndEncodeAgree : Obligations.DecodeAndEncodeAgree := by
  unfold Obligations.DecodeAndEncodeAgree
  refine ⟨fun _ _ => decode_encode, fun cap c i h => ⟨wellFormed_of_decode h, word_of_decode h, fun hs => ?_⟩⟩
  rw [encode, word_of_decode h, payload_of_decode h hs]

/-- Settles O3: each word is decoded by evaluation. -/
theorem sampleWordsDecode : Obligations.SampleWordsDecode := by
  unfold Obligations.SampleWordsDecode
  exact ⟨rfl, rfl, rfl, rfl, rfl, rfl, rfl, rfl, rfl, rfl, rfl, rfl⟩

/-- An opcode outside 0x01 to 0x05 is in no row of the opcode map (R79, R85). -/
theorem opcode_unmapped {op : Byte} (h : op.toNat < 1 ∨ 5 < op.toNat) :
    op ≠ sendOpcode ∧ c0Command op = none := by
  have hne (v : Byte) (hv : 1 ≤ v.toNat ∧ v.toNat ≤ 5) : op ≠ v := by rintro rfl; omega
  refine ⟨hne _ (by decide), ?_⟩
  rw [c0Command, if_neg (hne _ (by decide)), if_neg (hne _ (by decide)), if_neg (hne _ (by decide)),
    if_neg (hne _ (by decide))]

/-- Settles O4: a case for each row of the opcode map, and one for the opcodes outside it. -/
theorem everyWordDecodesOrIsRejectedByItsRule : Obligations.EveryWordDecodesOrIsRejectedByItsRule := by
  unfold Obligations.EveryWordDecodesOrIsRejectedByItsRule
  intro cap c op len
  have hop : (opField c.word).toNat = op := opField_toNat c.word
  have hlen : (lenField c.word).toNat = len := lenField_toNat c.word
  have hfield : lenField c.word = BitVec.ofNat 8 len := by rw [← hlen, BitVec.ofNat_toNat, BitVec.setWidth_eq]
  have hzero : lenField c.word ≠ 0#8 ↔ len ≠ 0 := by rw [Ne, BitVec.toNat_eq, hlen]; rfl
  have opcode {v : Byte} (h : op = v.toNat) : opField c.word = v := BitVec.eq_of_toNat_eq (hop.trans h)
  have c0 {v : Byte} {i : Instr} (h : op = v.toNat) (hv : c0Command v = some i) :
      decode cap c = if len ≠ 0 then .error .reservedOperand else .ok i := by
    rw [decode_c0Opcode cap (opcode h ▸ hv), if_congr hzero rfl rfl]
  clear_value op len
  obtain hout | rfl | rfl | rfl | rfl | rfl :
      (op < 1 ∨ 5 < op) ∨ op = 1 ∨ op = 2 ∨ op = 3 ∨ op = 4 ∨ op = 5 := by omega
  · obtain ⟨hne, hnone⟩ := opcode_unmapped (hop ▸ hout)
    rw [decode_illegalOpcode cap hne hnone, if_pos hout]
  · exact c0 (v := 0x01#8) rfl rfl
  · exact c0 (v := 0x02#8) rfl rfl
  · exact c0 (v := 0x03#8) rfl rfl
  · rw [decode_sendOpcode cap (opcode rfl), hlen, hfield]
    rfl
  · exact c0 (v := 0x05#8) rfl rfl

end Sys2Proof.Machine
end

section
/-! The ports outside IDLE, and the last step of each command (30_encoding.md R75, R76; 43_receive.md R129). -/

namespace Sys2Proof.Machine

/-- A running command's step takes nothing off the ports and answers no buffer read (R75, R129). -/
theorem Effect.ports {r : Running} {s t : State} (he : Effect s r t) :
    t.requests = s.requests ∧ t.bufReads = s.bufReads := by
  cases he with
  | quiet _ _ u hq => exact ⟨hq.requests, hq.bufReads⟩
  | broughtUp b u hq => exact ⟨hq.requests, hq.bufReads⟩
  | stored i inside behind r' u hl hq => exact ⟨hq.requests, hq.bufReads⟩
  | initDone | beginDone | endDone | sendDone | recvCached | recvDone => exact ⟨rfl, rfl⟩

/-- Settles O9: outside IDLE a step is the running command's, whose effects leave both ports alone, or does nothing. -/
theorem portsActOnlyInIdle : Obligations.PortsActOnlyInIdle := by
  unfold Obligations.PortsActOnlyInIdle
  intro s t hne h
  rcases step_cases h with rfl | ⟨hidle, -⟩ | ⟨r, -, hr⟩
  · exact ⟨rfl, rfl⟩
  · exact absurd hidle hne
  · exact (runningStep_effect hr).ports

/-- Settles O25: at its finishing position each running command's step is its end. -/
theorem everyCommandEndsWithItsOwnEffect : Obligations.EveryCommandEndsWithItsOwnEffect := by
  unfold Obligations.EveryCommandEndsWithItsOwnEffect
  exact ⟨fun _ => exec_busy, fun _ => exec_busy, fun _ => exec_busy, fun _ _ _ => exec_busy, fun _ => exec_busy,
    fun _ => exec_busy⟩

end Sys2Proof.Machine
end

section
/-! What `exec` does in each phase (10_state.md R32; 30_encoding.md R75), from which a command's frame is read off. -/

namespace Sys2Proof.Machine

/-- A command that is not the running one is held (R75; log 13). -/
theorem exec_held {i : Instr} {r : Running} {s : State} (h : s.phase = .busy r) (hne : r.instr ≠ i) :
    exec i s = .next s := by
  cases i with
  | init =>
    cases r with
    | init => exact absurd rfl hne
    | beginSession | endSession | send | recv => simp [exec, execInit, h]
  | beginSession =>
    cases r with
    | beginSession => exact absurd rfl hne
    | init | endSession | send | recv => simp [exec, execBegin, h]
  | endSession =>
    cases r with
    | endSession => exact absurd rfl hne
    | init | beginSession | send | recv => simp [exec, execEnd, h]
  | send len payload =>
    cases r with
    | send len' payload' p =>
      have hops : ¬ (len' = len ∧ payload' = payload) := fun ⟨hlen, hpayload⟩ => hne (hlen ▸ hpayload ▸ rfl)
      simp only [exec, execSend, h, if_neg hops]
    | init | beginSession | endSession | recv => simp [exec, execSend, h]
  | recv =>
    cases r with
    | recv => exact absurd rfl hne
    | init | beginSession | endSession | send => simp [exec, execRecv, h]

/-- Everything a command can do, by the block's phase: it is taken, it goes on, or nothing happens (R32, R75). -/
theorem exec_cases {i : Instr} {s t : State} (h : exec i s = .next t) :
    (s.phase = .idle ∧ t = if admitted i s then s.goTo (entry i s) else s.raiseFault .outsideSession (.word i.word)) ∨
    (∃ r, s.phase = .busy r ∧ r.instr = i ∧ runningStep r s = .next t) ∨ t = s := by
  obtain hp | ⟨r, hp⟩ | hp := phase_cases s
  · rw [exec_idle i hp] at h
    cases h
    exact .inl ⟨hp, rfl⟩
  · by_cases hr : r.instr = i
    · exact .inr (.inl ⟨r, hp, hr, by rw [← exec_busy hp, hr, h]⟩)
    · rw [exec_held hp hr] at h
      cases h
      exact .inr (.inr rfl)
  · have halted : exec i s = .next s := by
      cases i <;> simp [exec, execInit, execBegin, execEnd, execSend, execRecv, hp]
    rw [halted] at h
    cases h
    exact .inr (.inr rfl)

end Sys2Proof.Machine
end

section
/-! A run of BRINGUP from call to return (40_bringup.md R105 to R108, R111): what it changes of the block, which events it
issues, and that it returns. -/

namespace Sys2Proof.Machine

/-! What a part of BRINGUP changes. -/

/-- `t` is `s` after a part of BRINGUP that issued `es`: besides the trace only the position, the working registers of FLUSH,
the log of spins and the environment's side have moved (R105). -/
def Brings (es : List BusEvent) (s t : State) : Prop :=
  ∃ phase k level n spins env draws, t = { s with
    phase := phase
    work := { s.work with k := k, level := level, n := n }
    trace := s.trace ++ es
    spins := spins, env := env, draws := draws }

theorem brings_refl (s : State) : Brings [] s s :=
  ⟨_, _, _, _, _, _, _, by rw [List.append_nil]⟩

theorem brings_goTo (s : State) (r : Running) : Brings [] s (s.goTo r) :=
  ⟨_, _, _, _, _, _, _, by rw [List.append_nil]; rfl⟩

theorem brings_spin (s : State) (n : Nat) : Brings [] s (s.spin n) :=
  ⟨_, _, _, _, _, _, _, by rw [List.append_nil]; rfl⟩

theorem brings_writeByte (s : State) (r : Reg) (v : Byte) : Brings [.wr r.offset v] s (s.writeByte r v) :=
  ⟨_, _, _, _, _, _, _, rfl⟩

theorem brings_readByte (s : State) (r : Reg) : Brings [s.readEvent r] s (s.readByte r).2 :=
  ⟨_, _, _, _, _, _, _, congrArg (·.record (s.readEvent r)) (answer_state s r)⟩

theorem brings_burst (s : State) : Brings [s.burstEvent] s (s.readBurst .fifo (lowByte s.work.n)).2 :=
  ⟨_, _, _, _, _, _, _, congrArg (·.record s.burstEvent) (answers_state .fifo (lowByte s.work.n).toNat s)⟩

theorem Brings.trans {es fs : List BusEvent} {s t u : State} (h : Brings es s t) (h' : Brings fs t u) :
    Brings (es ++ fs) s u := by
  obtain ⟨_, _, _, _, _, _, _, rfl⟩ := h
  obtain ⟨_, _, _, _, _, _, _, rfl⟩ := h'
  exact ⟨_, _, _, _, _, _, _, by rw [← List.append_assoc]⟩

theorem Brings.goTo {es : List BusEvent} {s t : State} (h : Brings es s t) (r : Running) : Brings es s (t.goTo r) := by
  obtain ⟨_, _, _, _, _, _, _, rfl⟩ := h
  exact ⟨_, _, _, _, _, _, _, rfl⟩

/-- FLUSH's own working registers may be written besides (R108). -/
theorem Brings.setWork {es : List BusEvent} {s t : State} (h : Brings es s t) (k level n : Word) :
    Brings es s (t.setWork { t.work with k := k, level := level, n := n }) := by
  obtain ⟨_, _, _, _, _, _, _, rfl⟩ := h
  exact ⟨_, _, _, _, _, _, _, rfl⟩

theorem divprogStep_brings (p : DivPos) (s : State) : Brings [p.event s.cfg] s (divprogStep p s).2 := by
  cases p <;> exact brings_writeByte ..

theorem rearmStep_brings (p : RearmPos) (s : State) : Brings [p.event s.cfg] s (rearmStep p s).2 := by
  cases p <;> exact brings_writeByte ..

theorem flushStep_brings (p : FlushPos) (s : State) : Brings [p.event s] s (flushStep p s).2 := by
  cases p with
  | poll =>
    simp only [flushStep]
    split <;> exact (brings_readByte s .rxlvl).setWork _ _ _
  | burst => exact (brings_burst s).setWork _ _ _

theorem Brings.bringupFlush {es : List BusEvent} {s t : State} (h : Brings es s t) (q : Pass) :
    Brings es s (bringupFlush q t).2 := by
  rw [bringupFlush_state]
  exact h.setWork _ _ _

theorem bringupStep_brings (p : BringupPos) (s : State) : Brings (p.event s).toList s (bringupStep p s).2 := by
  cases p with
  | disable | fifoOff | sleepOff | pins => exact brings_writeByte ..
  | settleFirst => exact brings_spin ..
  | settleSecond => exact (brings_spin ..).bringupFlush .first
  | divprog q d =>
    have hd := divprogStep_brings d s
    exact callProc_ind (P := fun c : Option BringupPos × State => Brings _ s c.2) _ _ _ (fun _ => hd) hd
  | rearm q r =>
    have hr := rearmStep_brings r s
    refine callProc_ind (P := fun c : Option BringupPos × State => Brings _ s c.2) (rearmStep r s) _ _ (fun _ => hr) ?_
    cases q
    · exact hr
    · exact hr.bringupFlush .second
  | flush q f =>
    have hf := flushStep_brings f s
    refine callProc_ind (P := fun c : Option BringupPos × State => Brings _ s c.2) (flushStep f s) _ _ (fun _ => hf) ?_
    rw [bringupAfterFlush_state]
    exact hf

/-! Runs, and the two commands that make them. -/

/-- BRINGUP, called by a command that stands at `inside p` while BRINGUP is at `p`, returns after `n` steps with the events
`es`. -/
inductive BringupRun (inside : BringupPos → Running) :
    Nat → List BusEvent → Option BringupPos × State → State → Prop where
  | returns (s : State) : BringupRun inside 0 [] (none, s) s
  | goesOn {n : Nat} {es : List BusEvent} {p : BringupPos} {s t : State} :
      BringupRun inside n es (bringupStep p (s.goTo (inside p))) t →
      BringupRun inside (n + 1) ((p.event (s.goTo (inside p))).toList ++ es) (some p, s) t

theorem BringupRun.brings {inside : BringupPos → Running} {n : Nat} {es : List BusEvent} {c : Option BringupPos × State}
    {t : State} (h : BringupRun inside n es c t) : Brings es c.2 t := by
  induction h with
  | returns s => exact brings_refl s
  | goesOn _ ih => exact ((brings_goTo _ _).trans (bringupStep_brings _ _)).trans ih

/-- Command `i` runs BRINGUP at its positions `inside`, and behind the call it is at `behind`. -/
def CallsBringup (i : Instr) (inside : BringupPos → Running) (behind : State → State) : Prop :=
  ∀ (s : State) (p : BringupPos), s.phase = .busy (inside p) →
    exec i s = .next (callProc (bringupStep p s) (fun b t => t.goTo (inside b)) behind)

/-- INIT ends behind BRINGUP (R109). -/
theorem init_callsBringup :
    CallsBringup .init (fun p => .init (.bringup p)) (fun t => t.goTo (.init .finish)) :=
  fun _ _ hp => exec_busy hp

/-- BEGIN has INITIALIZED set behind BRINGUP and goes on with its own writes (R113; log 1). -/
theorem begin_callsBringup :
    CallsBringup .beginSession (fun p => .beginSession (.bringup p))
      (fun t => ({ t with initialized := true } : State).goTo (.beginSession .sleepOff)) :=
  fun _ _ hp => exec_busy hp

/-- A command that calls BRINGUP comes out behind it, as many steps later as BRINGUP's run has. -/
theorem CallsBringup.execN_returns {i : Instr} {inside : BringupPos → Running} {behind : State → State}
    (hc : CallsBringup i inside behind) {n : Nat} {es : List BusEvent} {c : Option BringupPos × State} {t : State}
    (h : BringupRun inside n es c t) (m : Nat) :
    execN i (n + m) (callProc c (fun b u => u.goTo (inside b)) behind) = execN i m (behind t) := by
  induction h with
  | returns s => rw [Nat.zero_add]; rfl
  | @goesOn n es p s t _ ih =>
    rw [Nat.add_right_comm, execN]
    simp only [callProc, hc (s.goTo (inside p)) p rfl]
    exact ih

/-! The branches of FLUSH (R108). -/

theorem flushHead_again {s : State} (h : flushAgain s.cfg s.work) : flushHead s = (some .poll, s) := by
  rw [flushHead, if_pos h]

theorem flushHead_spent {s : State} (h : ¬ flushAgain s.cfg s.work) : flushHead s = (none, s) := by
  rw [flushHead, if_neg h]

/-- A level of 0 ends FLUSH. -/
theorem flushStep_poll_empty {s : State} (hv : (s.answer .rxlvl).1 = 0#8) :
    ∃ u, flushStep .poll s = (none, u) ∧ u.cfg = s.cfg :=
  ⟨_, if_pos hv, readByte_cfg s .rxlvl⟩

/-- Any other level is followed by a burst of at most FLUSH_CHUNK bytes. -/
theorem flushStep_poll_filled {s : State} (hv : (s.answer .rxlvl).1 ≠ 0#8) :
    ∃ u, flushStep .poll s = (some .burst, u) ∧ u.cfg = s.cfg ∧ u.work.k = s.work.k ∧
      u.work.n = minWord (zext16 (s.answer .rxlvl).1) s.cfg.flushChunk :=
  ⟨_, if_neg hv, by simp, by simp, by simp⟩

/-- The burst ends the pass. -/
theorem flushStep_burst (s : State) :
    ∃ u, flushStep .burst s = flushHead u ∧ u.cfg = s.cfg ∧ u.work.k = s.work.k + 1#16 :=
  ⟨_, rfl, by simp, by simp⟩

/-- The count that FLUSH's burst has on the bus. -/
theorem lowByte_minWord (v : Byte) (chunk : Nat) :
    lowByte (minWord (zext16 v) chunk) = BitVec.ofNat 8 (min v.toNat chunk) := by
  simp only [lowByte, minWord, toWord, zext16_toNat, BitVec.setWidth_ofNat_of_le (show 8 ≤ 16 by omega)]

/-- The two events of a pass are those FLUSH's trace has for a level that is not 0. -/
theorem FlushTrace.burst {v : Byte} {s : State} {chunk k : Nat} {es : List BusEvent} (hv : v ≠ 0#8)
    (hn : s.work.n = minWord (zext16 v) chunk) (h : FlushTrace chunk k es) :
    FlushTrace chunk (k + 1) (.rd 0x48#8 v :: s.burstEvent :: es) := by
  have hlen : (BitVec.ofNat 8 (min v.toNat chunk)).toNat = min v.toNat chunk := by
    rw [BitVec.toNat_ofNat]
    omega
  rw [State.burstEvent, hn, lowByte_minWord]
  exact .pass k v _ es hv ((answers_length ..).trans hlen) h

/-! BRINGUP returns. -/

section Returns

variable {inside : BringupPos → Running}

/-- BRINGUP returns within `N` steps, with events of which `T` holds. -/
def Returns (inside : BringupPos → Running) (N : Nat) (T : List BusEvent → Prop) (c : Option BringupPos × State) : Prop :=
  ∃ n es t, n ≤ N ∧ T es ∧ BringupRun inside n es c t

theorem Returns.now {T : List BusEvent → Prop} (h : T []) (s : State) : Returns inside 0 T (none, s) :=
  ⟨0, [], s, Nat.le_refl 0, h, .returns s⟩

/-- What is asked of a position's events is asked of the later ones with its own event before them. -/
theorem Returns.goesOn {N : Nat} {T : List BusEvent → Prop} {p : BringupPos} {s : State}
    (h : Returns inside N (fun es => T ((p.event (s.goTo (inside p))).toList ++ es)) (bringupStep p (s.goTo (inside p)))) :
    Returns inside (N + 1) T (some p, s) := by
  obtain ⟨n, es, t, hn, hT, hr⟩ := h
  exact ⟨n + 1, _, t, Nat.succ_le_succ hn, hT, hr.goesOn⟩

theorem Returns.mono {N M : Nat} {T : List BusEvent → Prop} {c : Option BringupPos × State} (h : Returns inside N T c)
    (hle : N ≤ M) : Returns inside M T c := by
  obtain ⟨n, es, t, hn, hT, hr⟩ := h
  exact ⟨n, es, t, hn.trans hle, hT, hr⟩

/-- DIVPROG and then REARM: six writes whatever the environment answers (R106, R107). -/
theorem returns_program {N : Nat} {T : List BusEvent → Prop} {q : Pass} {s : State}
    (h : ∀ u : State, u.cfg = s.cfg →
      Returns inside N (fun es => T (programEvents s.cfg ++ es)) (bringupStep (.rearm q .receiver) u)) :
    Returns inside (N + 6) T (some (.divprog q .dlabOn), s) :=
  .goesOn (.goesOn (.goesOn (.goesOn (.goesOn (.goesOn (h _ rfl))))))

/-- FLUSH's loop with `k` passes left ends within two steps a pass, by induction on `k` (R108, R111). -/
theorem returns_flushHead {p : Params} (hl : p.Legal) {N : Nat} {q : Pass} (k : Nat) :
    ∀ {T : List BusEvent → Prop} {s : State}, s.cfg = p → s.work.k.toNat + k = p.flushMaxIter →
      (∀ f u, FlushTrace p.flushChunk k f → u.cfg = p →
        Returns inside N (fun es => T (f ++ es)) (bringupAfterFlush q u)) →
      Returns inside (N + 2 * k) T
        (callProc (flushHead s) (fun f t => (some (.flush q f), t)) (bringupAfterFlush q)) := by
  induction k with
  | zero =>
    intro T s hp hk h
    have hspent : ¬ flushAgain s.cfg s.work := by rw [flushAgain, hp]; omega
    rw [flushHead_spent hspent]
    exact h [] s .spent hp
  | succ k ih =>
    intro T s hp hk h
    have hagain : flushAgain s.cfg s.work := by rw [flushAgain, hp]; omega
    rw [flushHead_again hagain]
    refine .goesOn (N := N + 2 * k + 1) ?_
    by_cases hv : ((s.goTo (inside (.flush q .poll))).answer .rxlvl).1 = 0#8
    · obtain ⟨u, hu, hcfg⟩ := flushStep_poll_empty hv
      simp only [bringupStep, hu, callProc, BringupPos.event, FlushPos.event, State.readEvent, hv]
      exact (h _ u (.drained k) (hcfg.trans hp)).mono (by omega)
    · obtain ⟨u, hu, hcfg, huk, hun⟩ := flushStep_poll_filled hv
      obtain ⟨w, hw, hwcfg, hwk⟩ := flushStep_burst (u.goTo (inside (.flush q .burst)))
      simp only [bringupStep, hu, callProc]
      refine .goesOn (N := N + 2 * k) ?_
      simp only [bringupStep, hw]
      have hmax := hl.flushMaxIter_le
      refine ih (hwcfg.trans (hcfg.trans hp)) ?_ fun f x hf hx => h (_ :: _ :: f) x (hf.burst hv ?_) hx
      · have hsum : w.work.k = s.work.k + 1#16 := hwk.trans (congrArg (· + 1#16) huk)
        rw [hsum, BitVec.toNat_add, BitVec.toNat_ofNat]
        omega
      · exact hun.trans (congrArg (minWord _ ·.flushChunk) hp)

/-- A FLUSH that BRINGUP calls ends within two steps a pass (R108, R111). -/
theorem returns_flush {p : Params} (hl : p.Legal) {N : Nat} {T : List BusEvent → Prop} {q : Pass} {s : State}
    (hs : s.cfg = p)
    (h : ∀ f u, FlushTrace p.flushChunk p.flushMaxIter f → u.cfg = p →
      Returns inside N (fun es => T (f ++ es)) (bringupAfterFlush q u)) :
    Returns inside (N + 2 * p.flushMaxIter) T (bringupFlush q s) :=
  returns_flushHead hl p.flushMaxIter hs (Nat.zero_add _) h

/-- Behind the second REARM there is no delay: its last write enters FLUSH (R105, step 10). -/
theorem bringupStep_secondReceiver (s : State) :
    bringupStep (.rearm .second .receiver) s = bringupFlush .second (s.writeByte .efcr s.cfg.efcrRxOnly) := rfl

/-- BRINGUP's steps 1 to 5: four writes and the first delay (R105). -/
theorem returns_opening {N : Nat} {T : List BusEvent → Prop} {s : State}
    (h : ∀ u : State, u.cfg = s.cfg →
      Returns inside N (fun es => T ([.wr 0x78#8 s.cfg.efcrBothDisable, .wr 0x10#8 0x00#8, .wr 0x08#8 s.cfg.ierSleepOff,
        .wr 0x58#8 0x00#8] ++ es)) (some (.divprog .first .dlabOn), u)) :
    Returns inside (N + 5) T (some .disable, s) :=
  .goesOn (.goesOn (.goesOn (.goesOn (.goesOn (h _ rfl)))))

/-- BRINGUP's step 10 (R105). -/
theorem returns_stepTen {p : Params} (hl : p.Legal) {T : List BusEvent → Prop} {s : State} (hs : s.cfg = p)
    (h : ∀ g, FlushTrace p.flushChunk p.flushMaxIter g → T (programEvents p ++ g)) :
    Returns inside (0 + 2 * p.flushMaxIter + 6) T (some (.divprog .second .dlabOn), s) := by
  subst hs
  refine returns_program fun u hu => ?_
  rw [bringupStep_secondReceiver]
  exact returns_flush hl hu fun g w hg _ => .now (by simpa using h g hg) w

/-- BRINGUP returns, whatever the environment answers, with the events R105 gives it. -/
theorem returns_bringup {s : State} (hl : s.cfg.Legal) :
    Returns inside (18 + 4 * s.cfg.flushMaxIter) (BringupTrace s.cfg) (some .disable, s) := by
  have hrun : Returns inside (0 + 2 * s.cfg.flushMaxIter + 6 + 2 * s.cfg.flushMaxIter + 1 + 6 + 5) (BringupTrace s.cfg)
      (some .disable, s) := by
    refine returns_opening fun t ht => returns_program fun u hu => .goesOn ?_
    refine returns_flush hl (hu.trans ht) fun f w hf hw => returns_stepTen hl hw fun g hg => ⟨f, g, hf, hg, ?_⟩
    rw [ht]
    simp [BringupPos.event]
  exact hrun.mono (by omega)

end Returns

/-- BRINGUP, called in `s`, returns within its bound of steps in a state it has brought there. -/
theorem bringup_run (inside : BringupPos → Running) {s : State} (hl : s.cfg.Legal) :
    ∃ n es t, n ≤ 18 + 4 * s.cfg.flushMaxIter ∧ BringupTrace s.cfg es ∧ Brings es s t ∧
      BringupRun inside n es (some .disable, s) t := by
  obtain ⟨n, es, t, hn, htrace, hrun⟩ := returns_bringup (inside := inside) hl
  exact ⟨n, es, t, hn, htrace, hrun.brings, hrun⟩

end Sys2Proof.Machine
end

section
/-! INIT (40_bringup.md R109 to R111, R145): its run from IDLE to its end, and what a step of it leaves unchanged. -/

namespace Sys2Proof.Machine

/-- INIT takes one step more than BRINGUP to begin and one to end (R32; log 1). -/
theorem init_run {s : State} (hp : s.phase = .idle) (hl : s.cfg.Legal) :
    ∃ n es t, n ≤ 20 + 4 * s.cfg.flushMaxIter ∧ BringupTrace s.cfg es ∧ Brings es s t ∧
      execN .init n s = .next (({ t with initialized := true } : State).complete .done) := by
  obtain ⟨n, es, t, hn, htrace, hbrings, hrun⟩ := bringup_run (fun b => .init (.bringup b)) hl
  refine ⟨n + 1 + 1, es, t, by omega, htrace, hbrings, ?_⟩
  rw [execN, exec_idle .init hp]
  exact init_callsBringup.execN_returns hrun 1

/-- Settles O26: the run of BRINGUP that INIT makes returns, and INIT's own last step adds INITIALIZED and the completion. -/
theorem initRunsBringupToItsEnd : Obligations.InitRunsBringupToItsEnd := by
  unfold Obligations.InitRunsBringupToItsEnd
  intro s hp hl
  obtain ⟨n, es, t, -, htrace, ⟨phase, k, level, count, log, env, draws, rfl⟩, hrun⟩ := init_run hp hl
  refine ⟨_, es, { s.work with k := k, level := level, n := count }, env, draws, log,
    ⟨⟨n, hrun⟩, rfl, rfl⟩, htrace, ?_⟩
  simp only [State.complete, hp]

/-- Settles O27, with two steps a pass of FLUSH and twenty besides. -/
theorem bringupAlwaysTerminates : Obligations.BringupAlwaysTerminates := by
  unfold Obligations.BringupAlwaysTerminates
  intro s hp hl
  obtain ⟨n, es, t, hn, -, ⟨_, _, _, _, _, _, _, rfl⟩, hrun⟩ := init_run hp hl
  exact ⟨n, _, hn, hrun, rfl, rfl⟩

/-- A step of INIT inside BRINGUP does what BRINGUP's step does (R109). -/
theorem initStep_brings (b : BringupPos) (s : State) : Brings (b.event s).toList s (initStep (.bringup b) s) := by
  have hb := bringupStep_brings b s
  rw [initStep]
  exact callProc_ind (P := Brings _ s) _ _ _ (fun _ => hb.goTo _) (hb.goTo _)

/-- Everything a step of INIT can do: a part of BRINGUP, or its end (R109). -/
theorem exec_init_cases {s t : State} (h : exec .init s = .next t) :
    (∃ es, Brings es s t) ∨
    (s.phase = .busy (.init .finish) ∧ t = ({ s with initialized := true } : State).complete .done) := by
  rcases exec_cases h with ⟨-, rfl⟩ | ⟨r, hp, hr, ht⟩ | rfl
  · exact .inl ⟨[], brings_goTo ..⟩
  · cases r with
    | beginSession | endSession | send | recv => cases hr
    | init p =>
      cases ht
      cases p with
      | finish => exact .inr ⟨hp, rfl⟩
      | bringup b => exact .inl ⟨_, initStep_brings b s⟩
  · exact .inl ⟨[], brings_refl t⟩

/-- Settles O51: a part of BRINGUP moves nothing of what is named, and INIT's end moves INITIALIZED and the completions. -/
theorem initFrame : Obligations.InitFrame := by
  unfold Obligations.InitFrame
  intro s t h
  obtain ⟨es, _, _, _, _, _, _, _, rfl⟩ | ⟨hp, rfl⟩ := exec_init_cases h
  · exact ⟨rfl, rfl, rfl, rfl, rfl, rfl, rfl, rfl, fun _ => rfl, fun _ => ⟨rfl, rfl⟩, rfl⟩
  · exact ⟨rfl, rfl, rfl, rfl, rfl, rfl, rfl, rfl, fun _ => rfl, fun hne => absurd hp hne, rfl⟩

end Sys2Proof.Machine
end

section
/-! The settle delays of BRINGUP (00_scope.md R24; 40_bringup.md R105). -/

namespace Sys2Proof.Machine

/-- Entering a flush with passes to make: `k` starts at 0 (R25, R108). -/
theorem bringupFlush_passes (q : Pass) {s : State} (h : 0 < s.cfg.flushMaxIter) :
    bringupFlush q s = (some (.flush q .poll), s.setWork { s.work with k := 0#16 }) := by
  have henter : flushEnter s = (some .poll, s.setWork { s.work with k := 0#16 }) := flushHead_again h
  rw [bringupFlush, henter]
  rfl

/-- With FLUSH_MAX_ITER = 0 BRINGUP goes on behind the flush at once (R108). -/
theorem bringupFlush_noPass (q : Pass) {s : State} (h : ¬ 0 < s.cfg.flushMaxIter) :
    bringupFlush q s = bringupAfterFlush q (s.setWork { s.work with k := 0#16 }) := by
  have henter : flushEnter s = (none, s.setWork { s.work with k := 0#16 }) := flushHead_spent h
  rw [bringupFlush, henter]
  rfl

/-- A command that runs BRINGUP keeps FLUSH's registers and the trace behind it, and has left BRINGUP there (R109, R113). -/
theorem bringer_callsBringup {i : Instr} {inside : BringupPos → Running} (h : Bringer i inside) :
    ∃ behind, CallsBringup i inside behind ∧
      ∀ u : State, (behind u).trace = u.trace ∧ (behind u).work = u.work ∧ ∀ p, (behind u).phase ≠ .busy (inside p) := by
  cases h with
  | init => exact ⟨_, init_callsBringup, fun _ => ⟨rfl, rfl, nofun⟩⟩
  | beginSession => exact ⟨_, begin_callsBringup, fun _ => ⟨rfl, rfl, nofun⟩⟩

theorem bringer_injective {i : Instr} {inside : BringupPos → Running} (h : Bringer i inside) :
    Function.Injective inside := by
  cases h with
  | init => exact fun p q e => by cases e; rfl
  | beginSession => exact fun p q e => by cases e; rfl

/-- Settles O56: a delay is BRINGUP's step at `settleFirst` and at `settleSecond`, and each REARM goes on as its pass says. -/
theorem settleDelaysStandWhereBringupHasThem : Obligations.SettleDelaysStandWhereBringupHasThem := by
  unfold Obligations.SettleDelaysStandWhereBringupHasThem
  intro s i inside hb
  obtain ⟨behind, hcall, hbehind⟩ := bringer_callsBringup hb
  refine ⟨hcall s .pins, fun hp => ⟨_, hcall s .settleFirst hp⟩, hcall s (.rearm .first .receiver), fun hp => ?_,
    fun hp => ?_⟩
  · rw [hcall s _ hp, bringupStep]
    by_cases hF : 0 < s.cfg.flushMaxIter
    · rw [bringupFlush_passes .first (s := s.spin s.cfg.settleSpin) hF, if_pos hF]
      exact ⟨_, rfl⟩
    · rw [bringupFlush_noPass .first (s := s.spin s.cfg.settleSpin) hF, if_neg hF]
      exact ⟨_, rfl⟩
  · rw [hcall s _ hp, bringupStep_secondReceiver]
    by_cases hF : 0 < s.cfg.flushMaxIter
    · rw [bringupFlush_passes .second (s := s.writeByte .efcr s.cfg.efcrRxOnly) hF]
      exact ⟨_, rfl, rfl, rfl, fun _ => rfl, fun p e => bringer_injective hb (Phase.busy.inj e).symm⟩
    · rw [bringupFlush_noPass .second (s := s.writeByte .efcr s.cfg.efcrRxOnly) hF]
      obtain ⟨htrace, hwork, hleft⟩ := hbehind ((s.writeByte .efcr s.cfg.efcrRxOnly).setWork { s.work with k := 0#16 })
      exact ⟨_, rfl, htrace, hwork, fun h => absurd h hF, fun p e => absurd e (hleft p)⟩

end Sys2Proof.Machine
end

section
/-! BEGIN and END (41_session.md R113 to R116): their runs from IDLE to their ends, and what a step of each leaves
unchanged. -/

namespace Sys2Proof.Machine

/-- BEGIN's own writes, once its bring-up is behind it or was not needed, and then its end (R113, R114). -/
theorem begin_run_sleepOff (s : State) :
    execN .beginSession 4 (s.goTo (.beginSession .sleepOff)) = .next { s with
      phase := .idle, pending := 0#8, inSession := true, bufDefined := 0
      completions := s.completions ++ [.done]
      trace := s.trace ++ [.wr 0x08#8 s.cfg.ierSleepOff, .wr 0x58#8 0x00#8, .wr 0x10#8 s.cfg.fcrResetEnable] } :=
  calc execN .beginSession 4 (s.goTo (.beginSession .sleepOff))
    _ = execN .beginSession 1 ((((s.writeByte .ier s.cfg.ierSleepOff).writeByte .iostate iostateActive).writeByte
          .fcr s.cfg.fcrResetEnable).goTo (.beginSession .finish)) := rfl
    _ = .next (({ s with
          pending := 0#8, inSession := true, bufDefined := 0
          trace := s.trace ++ [.wr 0x08#8 s.cfg.ierSleepOff] ++ [.wr 0x58#8 0x00#8] ++ [.wr 0x10#8 s.cfg.fcrResetEnable] }
            : State).complete .done) := rfl
    _ = _ := by simp [State.complete]

/-- Settles O28: BEGIN is taken at its own writes or at a bring-up that returns there, and the writes then run to its end. -/
theorem beginOpensASession : Obligations.BeginOpensASession := by
  unfold Obligations.BeginOpensASession
  intro s hp hl three
  refine ⟨fun hinit => ?_, fun hinit => ?_⟩
  · have hrun : execN .beginSession 5 s = execN .beginSession 4 (s.goTo (.beginSession .sleepOff)) := by
      rw [execN, exec_idle .beginSession hp]
      simp [admitted, entry, beginEntry, hinit]
    refine ⟨⟨5, ?_⟩, hp, rfl⟩
    rw [hrun, begin_run_sleepOff, hp]
  · obtain ⟨n, es, t, -, htrace, hbrings, hbringup⟩ := bringup_run (fun b => .beginSession (.bringup b)) hl
    have hrun : execN .beginSession (n + 4 + 1) s =
        execN .beginSession 4 (({ t with initialized := true } : State).goTo (.beginSession .sleepOff)) := by
      rw [execN, exec_idle .beginSession hp, ← begin_callsBringup.execN_returns hbringup 4]
      simp [admitted, entry, beginEntry, hinit, callProc]
    obtain ⟨phase, k, level, count, log, env, draws, rfl⟩ := hbrings
    refine ⟨es, { s.work with k := k, level := level, n := count }, env, draws, log, htrace, ⟨n + 4 + 1, ?_⟩, hp, rfl⟩
    rw [hrun, begin_run_sleepOff, hp]

/-- Everything a step of BEGIN can do: a part of BRINGUP or a write of its own, the return from BRINGUP, or its end (R113). -/
theorem exec_begin_cases {s t : State} (h : exec .beginSession s = .next t) :
    (∃ es, Brings es s t) ∨
    (∃ es u, Brings es s u ∧ t = ({ u with initialized := true } : State).goTo (.beginSession .sleepOff)) ∨
    (s.phase = .busy (.beginSession .finish) ∧
      t = ({ s with pending := 0#8, inSession := true, bufDefined := 0 } : State).complete .done) := by
  rcases exec_cases h with ⟨-, rfl⟩ | ⟨r, hp, hr, ht⟩ | rfl
  · exact .inl ⟨[], brings_goTo ..⟩
  · cases r with
    | init | endSession | send | recv => cases hr
    | beginSession p =>
      cases ht
      cases p with
      | sleepOff | pins | fifo => exact .inl ⟨_, (brings_writeByte ..).goTo _⟩
      | finish => exact .inr (.inr ⟨hp, rfl⟩)
      | bringup b =>
        have hb := bringupStep_brings b s
        rw [beginStep]
        generalize bringupStep b s = c at hb ⊢
        obtain ⟨next, u⟩ := c
        cases next with
        | some b' => exact .inl ⟨_, hb.goTo _⟩
        | none => exact .inr (.inl ⟨_, u, hb, rfl⟩)
  · exact .inl ⟨[], brings_refl t⟩

/-- Settles O52: a part of BRINGUP or a write moves nothing of what is named, the return from BRINGUP sets INITIALIZED, and the
end is at BEGIN's finishing position. -/
theorem beginFrame : Obligations.BeginFrame := by
  unfold Obligations.BeginFrame
  intro s t h
  obtain ⟨es, _, _, _, _, _, _, _, rfl⟩ | ⟨es, _, ⟨_, _, _, _, _, _, _, rfl⟩, rfl⟩ | ⟨hp, rfl⟩ := exec_begin_cases h
  · exact ⟨rfl, rfl, rfl, rfl, rfl, fun _ => rfl, fun _ => ⟨rfl, rfl, rfl, rfl⟩, .inl rfl, rfl⟩
  · exact ⟨rfl, rfl, rfl, rfl, rfl, fun _ => rfl, fun _ => ⟨rfl, rfl, rfl, rfl⟩, .inr rfl, rfl⟩
  · exact ⟨rfl, rfl, rfl, rfl, rfl, fun _ => rfl, fun hne => absurd hp hne, .inl rfl, rfl⟩

/-- END's writes and then its end (R115). -/
theorem end_run_fifo (s : State) :
    execN .endSession 4 (s.goTo (.endSession .fifo)) = .next { s with
      phase := .idle, inSession := false
      completions := s.completions ++ [.done]
      trace := s.trace ++ [.wr 0x10#8 0x06#8, .wr 0x08#8 s.cfg.ierSleepOn, .wr 0x58#8 0x01#8] } :=
  calc execN .endSession 4 (s.goTo (.endSession .fifo))
    _ = execN .endSession 1 ((((s.writeByte .fcr fcrResetDisable).writeByte .ier s.cfg.ierSleepOn).writeByte
          .iostate iostateIdle).goTo (.endSession .finish)) := rfl
    _ = .next (({ s with
          inSession := false
          trace := s.trace ++ [.wr 0x10#8 0x06#8] ++ [.wr 0x08#8 s.cfg.ierSleepOn] ++ [.wr 0x58#8 0x01#8] }
            : State).complete .done) := rfl
    _ = _ := by simp [State.complete]

/-- Settles O29: END is taken whatever the session, and its four positions follow one another. -/
theorem endClosesTheSession : Obligations.EndClosesTheSession := by
  unfold Obligations.EndClosesTheSession
  intro s hp
  have hrun : execN .endSession 5 s = execN .endSession 4 (s.goTo (.endSession .fifo)) := by
    rw [execN, exec_idle .endSession hp]
    rfl
  refine ⟨⟨5, ?_⟩, hp, rfl⟩
  rw [hrun, end_run_fifo, hp]

/-- Everything a step of END can do: at most a write and a new position, or its end (R115, R116). -/
theorem exec_end_cases {s t : State} (h : exec .endSession s = .next t) :
    (∃ phase es, t = { s with phase := phase, trace := s.trace ++ es }) ∨
    (s.phase = .busy (.endSession .finish) ∧ t = ({ s with inSession := false } : State).complete .done) := by
  rcases exec_cases h with ⟨-, rfl⟩ | ⟨r, hp, hr, ht⟩ | rfl
  · exact .inl ⟨_, [], by rw [List.append_nil]; rfl⟩
  · cases r with
    | init | beginSession | send | recv => cases hr
    | endSession p =>
      cases ht
      cases p with
      | fifo | sleepOn | pins => exact .inl ⟨_, [_], rfl⟩
      | finish => exact .inr ⟨hp, rfl⟩
  · exact .inl ⟨_, [], by rw [List.append_nil]⟩

/-- Settles O53: a write moves the position and the trace only, and the end is at END's finishing position. -/
theorem endFrame : Obligations.EndFrame := by
  unfold Obligations.EndFrame
  intro s t h
  obtain ⟨phase, es, rfl⟩ | ⟨hp, rfl⟩ := exec_end_cases h
  · exact ⟨rfl, fun _ => rfl, fun _ => ⟨rfl, rfl⟩⟩
  · exact ⟨rfl, fun _ => rfl, fun hne => absurd hp hne⟩

end Sys2Proof.Machine
end

section
/-! SEND at each position before its reception (42_transmit.md R118, R120, R121): one equation of its step per position, with
the environment's answer to the step's read; and what these equations say of TXQUEUE and TXDRAIN. -/

namespace Sys2Proof.Machine

/-- What a read moves besides the trace: the environment's side (R48, R53). -/
theorem readByte_state (s : State) (r : Reg) :
    (s.readByte r).2 = { s with
      trace := s.trace ++ [s.readEvent r], env := (s.answer r).2.env, draws := (s.answer r).2.draws } :=
  congrArg (·.record (s.readEvent r)) (answer_state s r)

theorem txqueueHead_again {s : State} (h : queueAgain s.work) : txqueueHead s = (some .poll, s) := by
  rw [txqueueHead, if_pos h]

theorem txqueueHead_done {s : State} (h : ¬ queueAgain s.work) : txqueueHead s = (none, s) := by
  rw [txqueueHead, if_neg h]

section Positions

variable {s : State} {len : Byte} {payload : List Byte}

/-- TX-only goes out first, and a short payload goes on to its one burst (R118, R120). -/
theorem exec_send_txOn_short (hp : s.phase = .busy (.send len payload .txOn)) (hs : len.toNat ≤ s.cfg.txSingleBurstMax) :
    exec (.send len payload) s = .next { s with
      phase := .busy (.send len payload (.queue .single))
      trace := s.trace ++ [.wr 0x78#8 s.cfg.efcrTxOnly] } := by
  have henter : txqueueEnter len (s.writeByte .efcr s.cfg.efcrTxOnly) =
      (some .single, s.writeByte .efcr s.cfg.efcrTxOnly) := if_pos hs
  refine (exec_busy hp).trans ?_
  simp only [runningStep, sendStep, henter]
  rfl

/-- A longer payload goes the chunked way, from its first byte on (R120). -/
theorem exec_send_txOn_long (hp : s.phase = .busy (.send len payload .txOn)) (hs : s.cfg.txSingleBurstMax < len.toNat) :
    exec (.send len payload) s = .next { s with
      phase := .busy (.send len payload (.queue .poll))
      trace := s.trace ++ [.wr 0x78#8 s.cfg.efcrTxOnly]
      work := { s.work with offset := 0#16, remaining := len.setWidth 16 } } := by
  have hsome : zext16 len ≠ 0#16 := fun h0 => by
    have hlen := zext16_toNat len
    rw [h0, BitVec.toNat_ofNat] at hlen
    omega
  have henter : txqueueEnter len (s.writeByte .efcr s.cfg.efcrTxOnly) =
      (some .poll, (s.writeByte .efcr s.cfg.efcrTxOnly).setWork
        { s.work with offset := 0#16, remaining := zext16 len }) :=
    (if_neg (Nat.not_le.mpr hs)).trans (txqueueHead_again hsome)
  refine (exec_busy hp).trans ?_
  simp only [runningStep, sendStep, henter]
  rfl

/-- The one burst of a short payload (R120). -/
theorem exec_send_single (hp : s.phase = .busy (.send len payload (.queue .single))) :
    exec (.send len payload) s = .next { s with
      phase := .busy (.send len payload .drain)
      trace := s.trace ++ [.wb 0x00#8 (payload.take len.toNat)] } := by
  rw [← zext16_toNat len]
  exact exec_busy hp

/-- The chunked way reads the TX level: at 0 it reads again, and else the next burst is clamped to what remains (R120). -/
theorem exec_send_poll (hp : s.phase = .busy (.send len payload (.queue .poll))) (hr : s.work.remaining ≠ 0#16) :
    exec (.send len payload) s = .next { s with
      phase := .busy (.send len payload (.queue (if (s.answer .txlvl).1 = 0#8 then .poll else .burst)))
      trace := s.trace ++ [.rd 0x40#8 (s.answer .txlvl).1]
      env := (s.answer .txlvl).2.env, draws := (s.answer .txlvl).2.draws
      work := { s.work with
        level := (s.answer .txlvl).1.setWidth 16
        n := if (s.answer .txlvl).1 = 0#8 then s.work.n
          else BitVec.ofNat 16 (min s.work.remaining.toNat (s.answer .txlvl).1.toNat) } } := by
  refine (exec_busy hp).trans ?_
  simp only [runningStep, sendStep, txqueueStep, readByte_value, readByte_state, zext16_toNat]
  by_cases hv : (s.answer .txlvl).1 = 0#8
  · simp only [if_pos hv]
    rw [txqueueHead_again]
    · rfl
    · exact hr
  · simp only [if_neg hv]
    rfl

/-- A burst of the chunked way, from `offset` on; the loop ends when nothing remains (R120). -/
theorem exec_send_burst (hp : s.phase = .busy (.send len payload (.queue .burst))) :
    exec (.send len payload) s = .next { s with
      phase := .busy (.send len payload (if s.work.remaining = s.work.n then .drain else .queue .poll))
      trace := s.trace ++ [.wb 0x00#8 ((payload.drop s.work.offset.toNat).take s.work.n.toNat)]
      work := { s.work with
        offset := s.work.offset + s.work.n, remaining := s.work.remaining - s.work.n } } := by
  refine (exec_busy hp).trans ?_
  have hend : s.work.remaining - s.work.n = 0#16 ↔ s.work.remaining = s.work.n := by bv_omega
  simp only [runningStep, sendStep, txqueueStep]
  by_cases h : s.work.remaining = s.work.n
  · rw [if_pos h, txqueueHead_done (not_not.mpr (hend.mpr h))]
    rfl
  · rw [if_neg h, txqueueHead_again (mt hend.mp h)]
    rfl

/-- The test of TXDRAIN, on the byte that was read (R41, R121). -/
theorem txEmpty_zext16 (cfg : Params) (v : Byte) : txEmpty cfg (zext16 v) ↔ v &&& cfg.lsrTxEmptyMask ≠ 0#8 := by
  have h : zext16 v &&& zext16 cfg.lsrTxEmptyMask = zext16 (v &&& cfg.lsrTxEmptyMask) := (BitVec.setWidth_and ..).symm
  simp only [txEmpty, h, ne_eq, ← BitVec.toNat_inj, zext16_toNat, BitVec.toNat_ofNat]

/-- The wait for an empty transmitter reads line-status once a step (R121). -/
theorem exec_send_drain (hp : s.phase = .busy (.send len payload .drain)) :
    exec (.send len payload) s = .next { s with
      phase := .busy (.send len payload (if (s.answer .lsr).1 &&& s.cfg.lsrTxEmptyMask = 0#8 then .drain else .rxOn))
      trace := s.trace ++ [.rd 0x28#8 (s.answer .lsr).1]
      env := (s.answer .lsr).2.env, draws := (s.answer .lsr).2.draws
      work := { s.work with lsr := (s.answer .lsr).1.setWidth 16 } } := by
  refine (exec_busy hp).trans ?_
  simp only [runningStep, sendStep, txdrainStep, readByte_value, readByte_state, setWork_work, setWork_cfg, txEmpty_zext16]
  by_cases hv : (s.answer .lsr).1 &&& s.cfg.lsrTxEmptyMask = 0#8
  · simp only [hv]
    rfl
  · simp only [ne_eq, hv, not_false_iff, if_true, if_false]
    rfl

end Positions

/-- Settles O30: each clause is the equation of its position. -/
theorem transmitQueueFollowsItsPseudocode : Obligations.TransmitQueueFollowsItsPseudocode := by
  unfold Obligations.TransmitQueueFollowsItsPseudocode
  exact fun s len payload => ⟨exec_send_txOn_short, exec_send_txOn_long, exec_send_single,
    fun hp hr => ⟨_, _, _, rfl, exec_send_poll hp hr⟩, exec_send_burst⟩

/-- Settles O33: the equation of TXDRAIN's position. -/
theorem drainEndsWhenTheTransmitterIsEmpty : Obligations.DrainEndsWhenTheTransmitterIsEmpty := by
  unfold Obligations.DrainEndsWhenTheTransmitterIsEmpty
  exact fun s len payload hp => ⟨_, _, _, rfl, exec_send_drain hp⟩

/-- A well-formed SEND has as many payload bytes as its length says (R82, R88). -/
theorem payload_length {len : Byte} {payload : List Byte} {cap : Nat}
    (h : (Instr.send len payload).wellFormed cap = true) : payload.length = len.toNat := by
  simp only [Instr.wellFormed, Instr.payloadMatches, Bool.and_eq_true, decide_eq_true_eq] at h
  exact h.2

/-- Settles O31: the level read leaves in `n` at least 1 and at most the level, and the payload has `n` bytes at `offset`. -/
theorem noChunkBurstExceedsTheReportedLevel : Obligations.NoChunkBurstExceedsTheReportedLevel := by
  unfold Obligations.NoChunkBurstExceedsTheReportedLevel
  intro s t u len payload h hp ht htp hu
  obtain ⟨-, -, -, hwf, hsum, hpos⟩ : PhaseOk s (.busy (.send len payload (.queue .poll))) := hp ▸ h.phase
  have hpayload := payload_length hwf
  rw [exec_send_poll hp (by bv_omega)] at ht
  cases ht
  by_cases hv : (s.answer .txlvl).1 = 0#8
  · simp [hv] at htp
  · rw [exec_send_burst htp] at hu
    cases hu
    have hlevel := byte_pos hv
    refine ⟨(s.answer .txlvl).1, _, List.append_assoc .., ?_⟩
    simp only [if_neg hv, List.length_take, List.length_drop, BitVec.toNat_ofNat]
    omega

end Sys2Proof.Machine
end

section
/-! Runs of a command while it has not completed (10_state.md R32; 30_encoding.md R76): they stay inside the command, so that
what its steps keep holds of the run. -/

namespace Sys2Proof.Machine

/-- A running command's step goes on inside the command, or gives its completion. -/
theorem Effect.goesOn_or_completes {r : Running} {s t : State} (he : Effect s r t) :
    (∃ r', r'.instr = r.instr ∧ t.phase = .busy r' ∧ t.completions = s.completions) ∨
    ∃ c, t.completions = s.completions ++ [c] := by
  cases he with
  | quiet _ r' u hq hr => exact .inl ⟨r', hr, rfl, hq.completions⟩
  | broughtUp b u hq => exact .inl ⟨.beginSession .sleepOff, rfl, rfl, hq.completions⟩
  | stored i inside behind r' u hl hq hr =>
    have hinside : (inside .store).instr = i := by cases hl <;> rfl
    exact .inl ⟨r', hr.trans hinside.symm, rfl, hq.completions⟩
  | initDone | beginDone | endDone | sendDone | recvCached | recvDone => exact .inr ⟨_, rfl⟩

/-- No command takes a completion back (R76). -/
theorem exec_extends {i : Instr} {s t : State} (h : exec i s = .next t) : Extends s t := by
  obtain ⟨-, rfl⟩ | ⟨r, -, -, hr⟩ | rfl := exec_cases h
  · split <;> exact extends_same rfl
  · obtain ⟨-, -, -, hc⟩ | ⟨c, hc⟩ := (runningStep_effect hr).goesOn_or_completes
    · exact extends_same hc
    · exact ⟨[c], hc⟩
  · exact extends_same rfl

theorem execN_extends {i : Instr} (n : Nat) : ∀ {s t : State}, execN i n s = .next t → Extends s t := by
  induction n with
  | zero => intro s t h; cases h; exact extends_same rfl
  | succ n ih =>
    intro s t h
    rw [execN] at h
    split at h
    · next u hu => exact (exec_extends hu).trans (ih h)
    · cases h
    · cases h

/-- What a running command's steps keep holds throughout a run that gives no completion. -/
theorem execN_running_induction {i : Instr} {P : Running → State → Prop}
    (hstep : ∀ {r r' : Running} {u v : State}, u.phase = .busy r → r.instr = i → exec i u = .next v →
      v.phase = .busy r' → r'.instr = i → P r u → P r' v) (n : Nat) :
    ∀ {s t : State} {r : Running}, s.phase = .busy r → r.instr = i → P r s → execN i n s = .next t →
      t.completions = s.completions → ∃ r', t.phase = .busy r' ∧ r'.instr = i ∧ P r' t := by
  induction n with
  | zero => intro s t r hp hr hP h _; cases h; exact ⟨r, hp, hr, hP⟩
  | succ n ih =>
    intro s t r hp hr hP h hc
    rw [execN] at h
    split at h
    · next u hu =>
      have hrun : runningStep r s = .next u := by rw [← exec_busy hp, hr, hu]
      obtain ⟨r', hr', hp', hc'⟩ | ⟨c, hc'⟩ := (runningStep_effect hrun).goesOn_or_completes
      · exact ih hp' (hr'.trans hr) (hstep hp hr hu hp' (hr'.trans hr) hP) h (hc.trans hc'.symm)
      · obtain ⟨l, hl⟩ := execN_extends n h
        simp [hl, hc'] at hc
    · cases h
    · cases h

theorem newEvents_append {s t : State} {es : List BusEvent} (h : t.trace = s.trace ++ es) : newEvents s t = es := by
  rw [newEvents, h, List.drop_left]

end Sys2Proof.Machine
end

section
/-! What SEND has issued at each of its positions (42_transmit.md R118, R120, R122, R123): its payload bytes and its
extra-features writes. -/

namespace Sys2Proof.Machine

variable {len : Byte} {payload : List Byte}

/-- SEND's switch to reception enters RXWAIT with the long budget (R118, R125). -/
theorem exec_send_rxOn {s : State} (hp : s.phase = .busy (.send len payload .rxOn)) :
    exec (.send len payload) s = .next { s with
      phase := .busy (.send len payload (.listen .poll))
      trace := s.trace ++ [.wr 0x78#8 s.cfg.efcrRxOnly]
      work := { s.work with total := 0#16, rb := BitVec.ofNat 16 s.cfg.rxLongWait, iw := 0#16 } } :=
  exec_busy hp

/-- The order of SEND's positions (R118): queue, drain, listen, end. -/
inductive SendPos.Follows : SendPos → SendPos → Prop where
  | enters (q : TxPos) : Follows .txOn (.queue q)
  | queues (q q' : TxPos) : Follows (.queue q) (.queue q')
  | queued (q : TxPos) : Follows (.queue q) .drain
  | drains : Follows .drain .drain
  | drained : Follows .drain .rxOn
  | switched : Follows .rxOn (.listen .poll)
  | listens (q q' : RxPos) : Follows (.listen q) (.listen q')
  | heard (q : RxPos) : Follows (.listen q) .finish

/-- Where a command stands behind a call it goes on from in either way. -/
theorem callProc_goTo_phase {π : Type} {c : Option π × State} {inside : π → Running} {behind r : Running}
    (h : (callProc c (fun p t => t.goTo (inside p)) (fun t => t.goTo behind)).phase = .busy r) :
    (∃ p, inside p = r) ∨ behind = r := by
  rcases callProc_cases c (fun p t => t.goTo (inside p)) (fun t => t.goTo behind) with ⟨p, -, e⟩ | ⟨-, e⟩ <;>
    rw [e] at h <;> cases h
  · exact .inl ⟨p, rfl⟩
  · exact .inr rfl

theorem exec_send_follows {s t : State} {p q : SendPos} (hp : s.phase = .busy (.send len payload p))
    (h : exec (.send len payload) s = .next t) (ht : t.phase = .busy (.send len payload q)) : p.Follows q := by
  have hrun : sendStep len payload p s = .next t := (exec_busy hp).symm.trans h
  cases p with
  | txOn =>
    rcases le_or_gt len.toNat s.cfg.txSingleBurstMax with hs | hs
    · rw [exec_send_txOn_short hp hs] at h; cases h; cases ht; exact .enters _
    · rw [exec_send_txOn_long hp hs] at h; cases h; cases ht; exact .enters _
  | queue q =>
    cases hrun
    rcases callProc_goTo_phase ht with ⟨q', e⟩ | e <;> cases e
    · exact .queues q q'
    · exact .queued q
  | drain =>
    cases hrun
    rcases callProc_goTo_phase (c := txdrainStep s) ht with ⟨-, e⟩ | e <;> cases e
    · exact .drains
    · exact .drained
  | rxOn => rw [exec_send_rxOn hp] at h; cases h; cases ht; exact .switched
  | listen q =>
    obtain ⟨c, -, rfl⟩ := mapNext_eq_next hrun
    rcases callProc_goTo_phase ht with ⟨q', e⟩ | e <;> cases e
    · exact .listens q q'
    · exact .heard q
  | finish => cases hrun; cases ht

/-! A measure of the bus trace, along a run of SEND. -/

section Measure

variable {m : List BusEvent → List Byte} {I : SendPos → State → Prop} {val : SendPos → State → List Byte}

/-- SEND is at a position where `I` holds, and the events behind it since `s` measure what `val` says of the position. -/
def SendMeasures (len : Byte) (payload : List Byte) (s : State) (m : List BusEvent → List Byte)
    (I : SendPos → State → Prop) (val : SendPos → State → List Byte) (r : Running) (u : State) : Prop :=
  ∃ p es, r = .send len payload p ∧ I p u ∧ u.trace = s.trace ++ es ∧ m es = val p u

variable (hm : ∀ es fs, m (es ++ fs) = m es ++ m fs)
  (hstep : ∀ {p q : SendPos} {u v : State}, u.phase = .busy (.send len payload p) →
    exec (.send len payload) u = .next v → v.phase = .busy (.send len payload q) → I p u →
    I q v ∧ val q v = val p u ++ m ((Running.send len payload p).event u).toList)

include hm hstep

theorem SendMeasures.step {s u v : State} {r r' : Running} (hu : u.phase = .busy r)
    (hexec : exec (.send len payload) u = .next v) (hv : v.phase = .busy r') (hr' : r'.instr = .send len payload)
    (h : SendMeasures len payload s m I val r u) : SendMeasures len payload s m I val r' v := by
  obtain ⟨p, es, rfl, hI, htrace, hp⟩ := h
  cases r' with
  | init | beginSession | endSession | recv => cases hr'
  | send len' payload' q =>
    cases hr'
    obtain ⟨hI', hq⟩ := hstep hu hexec hv hI
    have hevent : v.trace = u.trace ++ ((Running.send len payload p).event u).toList :=
      runningStep_trace ((exec_busy hu).symm.trans hexec)
    exact ⟨q, _, rfl, hI', by rw [hevent, htrace, List.append_assoc], by rw [hm, hp, hq]⟩

/-- If every step of SEND keeps `I` and adds to the measure what `val` says from position to position, a run that has not come
to SEND's completion measures what `val` says of the position it has reached. -/
theorem send_run_measures {n : Nat} {s t : State} (hp : s.phase = .busy (.send len payload .txOn)) (hI : I .txOn s)
    (hval : m [] = val .txOn s) (h : execN (.send len payload) n s = .next t) (hc : t.completions = s.completions) :
    ∃ q, t.phase = .busy (.send len payload q) ∧ m (newEvents s t) = val q t := by
  have hstart : SendMeasures len payload s m I val (.send len payload .txOn) s :=
    ⟨.txOn, [], rfl, hI, (List.append_nil _).symm, hval⟩
  obtain ⟨_, ht, -, q, es, rfl, -, htrace, hq⟩ := execN_running_induction
    (fun hu _ hexec hv hr' hP => hP.step hm hstep hu hexec hv hr') n hp rfl hstart h hc
  exact ⟨q, ht, by rw [newEvents_append htrace, hq]⟩

end Measure

/-! What SEND has written to extra-features. -/

/-- The extra-features writes behind SEND at each of its positions (R118, R122(c)). -/
def SendPos.efcrWrites (cfg : Params) : SendPos → List Byte
  | .txOn => []
  | .queue _ | .drain | .rxOn => [cfg.efcrTxOnly]
  | .listen _ | .finish => [cfg.efcrTxOnly, cfg.efcrRxOnly]

theorem exec_keeps_cfg {i : Instr} {s t : State} (h : exec i s = .next t) : t.cfg = s.cfg := by
  obtain ⟨-, rfl⟩ | ⟨r, -, -, hr⟩ | rfl := exec_cases h
  · split <;> rfl
  · exact (runningStep_effect hr).cfg
  · rfl

/-- Settles O38: only the step behind `txOn` and the one behind `rxOn` write extra-features. -/
theorem sendWritesExtraFeaturesTwice : Obligations.SendWritesExtraFeaturesTwice := by
  unfold Obligations.SendWritesExtraFeaturesTwice
  intro n s t len payload hp h hc ht
  obtain ⟨q, hq, hwrites⟩ := send_run_measures (m := writesTo 0x78#8) (I := fun _ u => u.cfg = s.cfg)
    (val := fun p _ => p.efcrWrites s.cfg) (writesTo_append _) (fun {p q u v} hu hexec hv hcfg => by
      refine ⟨(exec_keeps_cfg hexec).trans hcfg, ?_⟩
      cases exec_send_follows hu hexec hv with
      | enters | switched => simp [SendPos.efcrWrites, Running.event, writesTo, Reg.offset, hcfg]
      | queues q | queued q => cases q <;> rfl
      | drains | drained => rfl
      | listens q | heard q => cases q <;> rfl) hp rfl rfl h hc
  obtain rfl : q = .finish := by rw [ht] at hq; cases hq; rfl
  exact hwrites

/-! What SEND has queued. -/

/-- The payload bytes behind SEND at each of its positions (R120). -/
def SendPos.queuedBytes (payload : List Byte) : SendPos → State → List Byte
  | .txOn, _ | .queue .single, _ => []
  | .queue .poll, s | .queue .burst, s => payload.take s.work.offset.toNat
  | .drain, _ | .rxOn, _ | .listen _, _ | .finish, _ => payload

/-- The condition of SEND's position holds and the parameters are legal. -/
def SendReady (len : Byte) (payload : List Byte) (p : SendPos) (s : State) : Prop :=
  s.cfg.Legal ∧ RunningOk s (.send len payload p)

theorem exec_send_ready {s t : State} {p q : SendPos} (hp : s.phase = .busy (.send len payload p))
    (h : exec (.send len payload) s = .next t) (ht : t.phase = .busy (.send len payload q))
    (hs : SendReady len payload p s) : SendReady len payload q t := by
  obtain ⟨hl, hok⟩ := hs
  exact ⟨exec_keeps_cfg h ▸ hl, runningStep_ok hl hok ((exec_busy hp).symm.trans h) _ ht⟩

/-- A step of TXQUEUE moves the payload bytes behind SEND on by its burst (R120). -/
theorem exec_queue_queuedBytes {s t : State} {p : TxPos} {q : SendPos} (hp : s.phase = .busy (.send len payload (.queue p)))
    (h : exec (.send len payload) s = .next t) (ht : t.phase = .busy (.send len payload q))
    (hpayload : payload.length = len.toNat) (hok : TxOk s len p) :
    q.queuedBytes payload t = (SendPos.queue p).queuedBytes payload s ++ burstBytes [p.event len payload s] := by
  cases p with
  | single =>
    rw [exec_send_single hp] at h
    cases h
    cases ht
    simp [SendPos.queuedBytes, TxPos.event, burstBytes, payloadSlice, zext16_toNat, ← hpayload]
  | poll =>
    obtain ⟨hsum, hpos⟩ := hok
    rw [exec_send_poll hp (by bv_omega)] at h
    cases h
    cases ht
    simp only [TxPos.event, State.readEvent, burstBytes, List.append_nil]
    split <;> rfl
  | burst =>
    obtain ⟨hsum, -, hn, -⟩ := hok
    rw [exec_send_burst hp] at h
    cases h
    cases ht
    have hoffset : (s.work.offset + s.work.n).toNat = s.work.offset.toNat + s.work.n.toNat := by bv_omega
    have hjoined : payload.take (s.work.offset.toNat + s.work.n.toNat) =
        payload.take s.work.offset.toNat ++ (payload.drop s.work.offset.toNat).take s.work.n.toNat := List.take_add
    simp only [TxPos.event, payloadSlice, burstBytes, List.append_nil]
    refine Eq.trans ?_ hjoined
    by_cases hall : s.work.remaining = s.work.n
    · rw [if_pos hall, ← hall, hsum, ← hpayload, List.take_length]
      rfl
    · rw [if_neg hall, ← hoffset]
      rfl

theorem exec_send_queuedBytes {s t : State} {p q : SendPos} (hp : s.phase = .busy (.send len payload p))
    (h : exec (.send len payload) s = .next t) (ht : t.phase = .busy (.send len payload q))
    (hs : SendReady len payload p s) :
    q.queuedBytes payload t = p.queuedBytes payload s ++ burstBytes ((Running.send len payload p).event s).toList := by
  obtain ⟨-, -, hwf, hok⟩ := hs
  cases exec_send_follows hp h ht with
  | enters q =>
    rcases le_or_gt len.toNat s.cfg.txSingleBurstMax with hs | hs
    · rw [exec_send_txOn_short hp hs] at h; cases h; cases ht; rfl
    · rw [exec_send_txOn_long hp hs] at h; cases h; cases ht; rfl
  | queues | queued => exact exec_queue_queuedBytes hp h ht (payload_length hwf) hok
  | drains | drained | switched => exact (List.append_nil _).symm
  | listens q | heard q => cases q <;> exact (List.append_nil _).symm

/-- The bursts of a run of SEND, joined, are the payload bytes behind the position it has reached. -/
theorem send_run_queuedBytes {n : Nat} {s t : State} (hp : s.phase = .busy (.send len payload .txOn))
    (hs : SendReady len payload .txOn s) (h : execN (.send len payload) n s = .next t)
    (hc : t.completions = s.completions) :
    ∃ q, t.phase = .busy (.send len payload q) ∧ burstBytes (newEvents s t) = q.queuedBytes payload t :=
  send_run_measures (I := SendReady len payload) burstBytes_append
    (fun hu hexec hv hI => ⟨exec_send_ready hu hexec hv hI, exec_send_queuedBytes hu hexec hv hI⟩) hp hs rfl h hc

/-- Settles O32: at TXDRAIN every payload byte is behind SEND. -/
theorem everyPayloadByteIsQueuedOnceInOrder : Obligations.EveryPayloadByteIsQueuedOnceInOrder := by
  unfold Obligations.EveryPayloadByteIsQueuedOnceInOrder
  intro n s t len payload hs hp h hc ht
  obtain ⟨-, -, hok⟩ : PhaseOk s (.busy (.send len payload .txOn)) := hp ▸ hs.phase
  obtain ⟨q, hq, hbytes⟩ := send_run_queuedBytes hp ⟨hs.legal, hok⟩ h hc
  obtain rfl : q = .drain := by rw [ht] at hq; cases hq; rfl
  exact hbytes

end Sys2Proof.Machine
end

section
/-! Answers that stand in the environment's queues (10_state.md R47, R48), and runs put together of runs. -/

namespace Sys2Proof.Machine

theorem answer_lsr {s : State} {v : Byte} {vs : List Byte} (h : s.env.lineStatus = v :: vs) :
    s.answer .lsr = (v, { s with env := { s.env with lineStatus := vs } }) := by
  simp [State.answer, Env.pop, h]

theorem answer_txlvl {s : State} {v : Byte} {vs : List Byte} (h : s.env.txLevels = v :: vs) :
    s.answer .txlvl = (v, { s with env := { s.env with txLevels := vs } }) := by
  simp [State.answer, Env.pop, h]

theorem answer_rxlvl {s : State} {v : Byte} {vs : List Byte} (h : s.env.rxLevels = v :: vs) :
    s.answer .rxlvl = (v, { s with env := { s.env with rxLevels := vs } }) := by
  simp [State.answer, Env.pop, h]

theorem answer_fifo {s : State} {v : Byte} {vs : List Byte} (h : s.env.fifo = v :: vs) :
    s.answer .fifo = (v, { s with env := { s.env with fifo := vs } }) := by
  simp [State.answer, Env.pop, h]

/-- A burst read takes its bytes off the receive FIFO (R55). -/
theorem answers_fifo (bytes : List Byte) {more : List Byte} : ∀ {s : State}, s.env.fifo = bytes ++ more →
    State.answers .fifo bytes.length s = (bytes, { s with env := { s.env with fifo := more } }) := by
  induction bytes with
  | nil => rintro s rfl; rfl
  | cons v vs ih =>
    intro s h
    simp only [List.length_cons, State.answers, answer_fifo h]
    rw [ih]
    rfl

theorem execN_succ {i : Instr} {s t : State} (h : exec i s = .next t) (n : Nat) : execN i (n + 1) s = execN i n t := by
  rw [execN, h]

theorem execN_add {i : Instr} (m n : Nat) : ∀ {s t : State}, execN i m s = .next t →
    execN i (m + n) s = execN i n t := by
  induction m with
  | zero => intro s t h; cases h; rw [Nat.zero_add]
  | succ m ih =>
    intro s t h
    rw [execN] at h
    split at h
    · next u hu => rw [Nat.add_right_comm, execN_succ hu, ih h]
    · cases h
    · cases h

end Sys2Proof.Machine
end

section
/-! Runs of TXQUEUE's chunked way and of TXDRAIN (42_transmit.md R120, R121, R124): how long they wait, and that they end. -/

namespace Sys2Proof.Machine

variable {len : Byte} {payload : List Byte}

/-- A full transmit FIFO leaves SEND at its level read (R120(c)). -/
theorem exec_send_poll_full {s : State} {vs : List Byte} (hp : s.phase = .busy (.send len payload (.queue .poll)))
    (hr : s.work.remaining ≠ 0#16) (h : s.env.txLevels = 0#8 :: vs) :
    exec (.send len payload) s = .next { s with
      work := { s.work with level := 0#16 }
      env := { s.env with txLevels := vs }
      trace := s.trace ++ [.rd 0x40#8 0#8] } := by
  rw [exec_send_poll hp hr, answer_txlvl h, if_pos rfl, if_pos rfl, ← hp]
  rfl

/-- A transmitter that is not empty leaves SEND at its line-status read (R121). -/
theorem exec_send_drain_busy {s : State} {v : Byte} {vs : List Byte} (hp : s.phase = .busy (.send len payload .drain))
    (h : s.env.lineStatus = v :: vs) (hv : v &&& s.cfg.lsrTxEmptyMask = 0#8) :
    exec (.send len payload) s = .next { s with
      work := { s.work with lsr := v.setWidth 16 }
      env := { s.env with lineStatus := vs }
      trace := s.trace ++ [.rd 0x28#8 v] } := by
  rw [exec_send_drain hp, answer_lsr h, if_pos hv, ← hp]

/-- An empty transmitter sends SEND on to its reception (R121). -/
theorem exec_send_drain_empty {s : State} {v : Byte} {vs : List Byte} (hp : s.phase = .busy (.send len payload .drain))
    (h : s.env.lineStatus = v :: vs) (hv : v &&& s.cfg.lsrTxEmptyMask ≠ 0#8) :
    exec (.send len payload) s = .next { s with
      phase := .busy (.send len payload .rxOn)
      work := { s.work with lsr := v.setWidth 16 }
      env := { s.env with lineStatus := vs }
      trace := s.trace ++ [.rd 0x28#8 v] } := by
  rw [exec_send_drain hp, answer_lsr h, if_neg hv]

/-- Settles O35, by induction on the number of reads. -/
theorem fullTransmitFifoHoldsSendForEver : Obligations.FullTransmitFifoHoldsSendForEver := by
  unfold Obligations.FullTransmitFifoHoldsSendForEver
  intro s len payload more n
  induction n generalizing s with
  | zero =>
    rintro hp hr rfl
    exact ⟨s.work, by simp [execN]⟩
  | succ n ih =>
    intro hp hr h
    rw [execN_succ (exec_send_poll_full hp hr h)]
    obtain ⟨w, hw⟩ := ih { s with
      work := { s.work with level := 0#16 }
      env := { s.env with txLevels := List.replicate n 0#8 ++ more }
      trace := s.trace ++ [.rd 0x40#8 0#8] } hp hr rfl
    exact ⟨w, hw.trans (by simp [List.replicate_succ])⟩

/-- Settles O34, by induction on the reads that lack the bit. -/
theorem stuckTransmitterHoldsSendForEver : Obligations.StuckTransmitterHoldsSendForEver := by
  unfold Obligations.StuckTransmitterHoldsSendForEver
  intro s len payload stuck more
  induction stuck generalizing s with
  | nil =>
    rintro hp rfl -
    exact ⟨s.work, by simp [execN]⟩
  | cons v vs ih =>
    intro hp h hstuck
    rw [List.forall_mem_cons] at hstuck
    obtain ⟨hv, hvs⟩ := hstuck
    rw [List.length_cons, execN_succ (exec_send_drain_busy hp h hv)]
    obtain ⟨w, hw⟩ := ih { s with
      work := { s.work with lsr := v.setWidth 16 }
      env := { s.env with lineStatus := vs ++ more }
      trace := s.trace ++ [.rd 0x28#8 v] } hp rfl hvs
    exact ⟨w, hw.trans (by simp)⟩

/-- `s` behind a TX level of `v` and the burst of `n` bytes it led to, SEND being at `p` (R120). -/
def State.chunkSent (s : State) (len : Byte) (payload : List Byte) (p : SendPos) (v : Byte) (vs : List Byte) (n : Word) :
    State :=
  { s with
    phase := .busy (.send len payload p)
    work := { s.work with
      level := v.setWidth 16, n := n, offset := s.work.offset + n, remaining := s.work.remaining - n }
    env := { s.env with txLevels := vs }
    trace := s.trace ++ [.rd 0x40#8 v] ++ [.wb 0x00#8 ((payload.drop s.work.offset.toNat).take n.toNat)] }

/-- The wait for an empty transmitter ends with the first line-status read that has the bit (R121). -/
theorem send_drain_run {s : State} {busy more : List Byte} {v : Byte} (hp : s.phase = .busy (.send len payload .drain))
    (h : s.env.lineStatus = busy ++ v :: more) (hbusy : ∀ x ∈ busy, x &&& s.cfg.lsrTxEmptyMask = 0#8)
    (hv : v &&& s.cfg.lsrTxEmptyMask ≠ 0#8) :
    ∃ w, execN (.send len payload) (busy.length + 1) s = .next { s with
      phase := .busy (.send len payload .rxOn)
      work := w
      env := { s.env with lineStatus := more }
      trace := s.trace ++ busy.map (fun x => .rd 0x28#8 x) ++ [.rd 0x28#8 v] } := by
  obtain ⟨w, hw⟩ := stuckTransmitterHoldsSendForEver s len payload busy (v :: more) hp h hbusy
  refine ⟨{ w with lsr := v.setWidth 16 }, (execN_add busy.length 1 hw).trans ?_⟩
  refine execN_succ ?_ 0
  exact exec_send_drain_empty hp rfl hv

/-- A nonzero level is followed by a burst of what remains, clamped to the level (R120). -/
theorem execN_send_chunk {s : State} {v : Byte} {vs : List Byte} {n : Word}
    (hp : s.phase = .busy (.send len payload (.queue .poll))) (hr : s.work.remaining ≠ 0#16)
    (h : s.env.txLevels = v :: vs) (hv : v ≠ 0#8) (hn : BitVec.ofNat 16 (min s.work.remaining.toNat v.toNat) = n) :
    execN (.send len payload) 2 s =
      .next (s.chunkSent len payload (if s.work.remaining = n then .drain else .queue .poll) v vs n) := by
  subst hn
  have hpoll := exec_send_poll hp hr
  rw [answer_txlvl h, if_neg hv, if_neg hv] at hpoll
  rw [execN_succ hpoll, execN_succ (exec_send_burst rfl)]
  rfl

/-- With a nonzero level for each byte that remains, the chunked way queues them all (R120). -/
theorem send_chunks_run (levels : List Byte) {more : List Byte} : ∀ {s : State},
    s.phase = .busy (.send len payload (.queue .poll)) → TxOk s len .poll → s.env.txLevels = levels ++ more →
    (∀ v ∈ levels, v ≠ 0#8) → s.work.remaining.toNat ≤ levels.length →
    ∃ n work rest trace, execN (.send len payload) n s = .next { s with
        phase := .busy (.send len payload .drain)
        work := work, env := { s.env with txLevels := rest }, trace := trace } ∧
      work.remaining = 0#16 ∧ work.offset.toNat = len.toNat := by
  induction levels with
  | nil =>
    rintro s - ⟨-, hpos⟩ - - hlen
    exact absurd hlen (Nat.not_le.mpr hpos)
  | cons v vs ih =>
    rintro s hp ⟨hsum, hpos⟩ h hlevels hlen
    rw [List.forall_mem_cons] at hlevels
    obtain ⟨hv, hvs⟩ := hlevels
    generalize hn : BitVec.ofNat 16 (min s.work.remaining.toNat v.toNat) = n
    have hchunk := execN_send_chunk hp (by bv_omega) h hv hn
    have hlevel := byte_pos hv
    obtain ⟨hn1, hnr⟩ : 1 ≤ n.toNat ∧ n.toNat ≤ s.work.remaining.toNat := by
      rw [← hn, BitVec.toNat_ofNat]
      omega
    have hoffset : (s.work.offset + n).toNat = s.work.offset.toNat + n.toNat := by bv_omega
    by_cases hall : s.work.remaining = n
    · rw [if_pos hall] at hchunk
      exact ⟨2, _, vs ++ more, _, hchunk, sub_eq_zero.mpr hall, by rw [← hsum, hall]; exact hoffset⟩
    · rw [if_neg hall] at hchunk
      have hremaining : (s.work.remaining - n).toNat = s.work.remaining.toNat - n.toNat := by bv_omega
      have hleft : s.work.remaining.toNat ≠ n.toNat := mt BitVec.eq_of_toNat_eq hall
      have hok : TxOk (s.chunkSent len payload (.queue .poll) v (vs ++ more) n) len .poll := by
        simp only [TxOk, State.chunkSent, hoffset, hremaining]
        omega
      obtain ⟨m, work, rest, trace, hrun, hend⟩ := ih rfl hok rfl hvs
        (hremaining.trans_le (by rw [List.length_cons] at hlen; omega))
      exact ⟨2 + m, work, rest, trace, (execN_add 2 m hchunk).trans hrun, hend⟩

/-- Settles O36: the run of the chunked way, from a state whose invariant holds. -/
theorem chunkedTransmitEndsWhenTheFifoHasRoom : Obligations.ChunkedTransmitEndsWhenTheFifoHasRoom := by
  unfold Obligations.ChunkedTransmitEndsWhenTheFifoHasRoom
  intro s len payload levels more hs hp h hlevels hlen
  obtain ⟨-, -, -, -, hok⟩ : PhaseOk s (.busy (.send len payload (.queue .poll))) := hp ▸ hs.phase
  obtain ⟨n, work, rest, trace, hrun, hremaining, hoffset⟩ := send_chunks_run levels hp hok h hlevels hlen
  exact ⟨n, _, hrun, rfl, rfl, hremaining, hoffset⟩

end Sys2Proof.Machine
end

section
/-! RXWAIT at each of its positions, in either of the commands that run it (43_receive.md R125): one equation of its step per
position, with the environment's answers to the step's reads; and the runs they make up when nothing comes and when one message
comes (R126). -/

namespace Sys2Proof.Machine

section Positions

variable {i : Instr} {inside : RxPos → Running} {behind : Running} (hl : Listener i inside behind) {s : State}

include hl

/-- The wait's read and its three outcomes. -/
theorem exec_listen_poll (hp : s.phase = .busy (inside .poll)) :
    exec i s = .next { s with
      trace := s.trace ++ [.rd 0x48#8 (s.answer .rxlvl).1]
      env := (s.answer .rxlvl).2.env, draws := (s.answer .rxlvl).2.draws
      phase := .busy (
        if (s.answer .rxlvl).1 = 0#8 ∧ s.work.iw < s.work.rb then inside .pause
        else if s.work.iw = s.work.rb then behind
        else inside .reread)
      work :=
        if (s.answer .rxlvl).1 = 0#8 ∧ s.work.iw < s.work.rb then s.work
        else if s.work.iw = s.work.rb then { s.work with count := s.work.total }
        else { s.work with rb := BitVec.ofNat 16 s.cfg.rxMaxWait } } := by
  refine (listener_exec hl hp).trans ?_
  simp only [rxwaitStep, readByte_value, readByte_state, rxwaitPolled, waitAgain, waitExpired]
  by_cases hw : (s.answer .rxlvl).1 = 0#8 ∧ s.work.iw < s.work.rb
  · simp only [if_pos hw]
    rfl
  · by_cases hx : s.work.iw = s.work.rb
    · simp only [if_neg hw, if_pos hx]
      rfl
    · simp only [if_neg hw, if_neg hx]
      rfl

theorem exec_listen_pause (hp : s.phase = .busy (inside .pause)) :
    exec i s = .next { s with
      phase := .busy (inside .poll)
      spins := s.spins ++ [s.cfg.rxPollDelay]
      work := { s.work with iw := s.work.iw + 1#16 } } :=
  listener_exec hl hp

/-- The re-read, with the clamp to the free space. -/
theorem exec_listen_reread (hp : s.phase = .busy (inside .reread)) :
    exec i s = .next { s with
      trace := s.trace ++ [.rd 0x48#8 (s.answer .rxlvl).1]
      env := (s.answer .rxlvl).2.env, draws := (s.answer .rxlvl).2.draws
      phase := .busy (inside .burst)
      work := { s.work with
        level := (s.answer .rxlvl).1.setWidth 16
        n := BitVec.ofNat 16 (min (s.answer .rxlvl).1.toNat (s.cfg.rxCapacity - s.work.total.toNat)) } } := by
  refine (listener_exec hl hp).trans ?_
  simp only [rxwaitStep, readByte_value, readByte_state, rxwaitLevel, minWord, zext16_toNat]
  rfl

theorem exec_listen_burst (hp : s.phase = .busy (inside .burst)) (hn : s.work.n.toNat ≤ 255) :
    exec i s = .next { s with
      trace := s.trace ++ [.rb 0x00#8 (s.work.n.setWidth 8) (State.answers .fifo s.work.n.toNat s).1]
      env := (State.answers .fifo s.work.n.toNat s).2.env, draws := (State.answers .fifo s.work.n.toNat s).2.draws
      phase := .busy (inside .store)
      work := { s.work with bs := (State.answers .fifo s.work.n.toNat s).1 } } := by
  refine (listener_exec hl hp).trans ?_
  simp only [rxwaitStep, State.readBurst, lowByte_toNat s.work.n hn]
  rw [answers_state]
  rfl

/-- The store of a burst that fits, which ends the reception where the buffer is full. -/
theorem exec_listen_store (hp : s.phase = .busy (inside .store)) (hlegal : s.cfg.Legal)
    (hfit : s.work.total.toNat + s.work.n.toNat ≤ s.cfg.rxCapacity) (hbs : s.work.bs.length = s.work.n.toNat) :
    exec i s = .next { s with
      buf := Memory.setBytes s.buf s.work.total.toNat s.work.bs
      phase := .busy (
        if s.cfg.rxCapacity ≤ s.work.total.toNat + s.work.n.toNat then behind else inside .poll)
      work :=
        if s.cfg.rxCapacity ≤ s.work.total.toNat + s.work.n.toNat then
          { s.work with total := s.work.total + s.work.n, count := s.work.total + s.work.n }
        else { s.work with total := s.work.total + s.work.n, iw := 0#16 } } := by
  refine (listener_exec hl hp).trans ?_
  rw [rxwaitStep_store, if_pos ⟨hfit, hbs⟩, ← toNat_total_add hlegal hfit]
  rcases rxwaitStored_cases s.stored with ⟨hfull, e⟩ | ⟨hroom, e⟩
  · replace hfull : s.cfg.rxCapacity ≤ (s.work.total + s.work.n).toNat := hfull
    rw [if_pos hfull, if_pos hfull]
    exact congrArg (fun c => mapNext _ (.next c)) e
  · replace hroom : ¬ s.cfg.rxCapacity ≤ (s.work.total + s.work.n).toNat := Nat.not_le.mpr hroom
    rw [if_neg hroom, if_neg hroom]
    exact congrArg (fun c => mapNext _ (.next c)) e

end Positions

section Runs

variable {i : Instr} {inside : RxPos → Running} {behind : Running} (hl : Listener i inside behind)

include hl

/-- The read made with the budget used up ends the reception (R126(b)). -/
theorem exec_listen_poll_expired {s : State} {v : Byte} {vs : List Byte} (hp : s.phase = .busy (inside .poll))
    (hx : s.work.iw = s.work.rb) (h : s.env.rxLevels = v :: vs) :
    exec i s = .next { s with
      phase := .busy behind
      env := { s.env with rxLevels := vs }
      trace := s.trace ++ [.rd 0x48#8 v]
      work := { s.work with count := s.work.total } } := by
  have hw : ¬ (v = 0#8 ∧ s.work.iw < s.work.rb) := fun ⟨_, hlt⟩ => by rw [hx] at hlt; exact BitVec.lt_irrefl _ hlt
  rw [exec_listen_poll hl hp, answer_rxlvl h, if_neg hw, if_neg hw, if_pos hx, if_pos hx]

/-- A level of 0 within the budget costs a read and a pause (R125, R126(a)). -/
theorem execN_listen_waits {s : State} {vs : List Byte} (hp : s.phase = .busy (inside .poll))
    (hlt : s.work.iw < s.work.rb) (h : s.env.rxLevels = 0#8 :: vs) :
    execN i 2 s = .next { s with
      phase := .busy (inside .poll)
      env := { s.env with rxLevels := vs }
      trace := s.trace ++ [.rd 0x48#8 0#8]
      spins := s.spins ++ [s.cfg.rxPollDelay]
      work := { s.work with iw := s.work.iw + 1#16 } } := by
  have hw : 0#8 = 0#8 ∧ s.work.iw < s.work.rb := ⟨rfl, hlt⟩
  have hpoll := exec_listen_poll hl hp
  rw [answer_rxlvl h, if_pos hw, if_pos hw] at hpoll
  rw [execN_succ hpoll, execN_succ (exec_listen_pause hl rfl)]
  rfl

/-- A wait that sees no data for the `k` iterations its budget has left, and at its last read, ends the reception with the
count so far (R126(a)). -/
theorem listen_silence_run (k : Nat) {more : List Byte} : ∀ {s : State}, s.phase = .busy (inside .poll) →
    s.work.iw.toNat + k = s.work.rb.toNat → s.env.rxLevels = List.replicate (k + 1) 0#8 ++ more →
    ∃ log, execN i (2 * k + 1) s = .next { s with
      phase := .busy behind
      env := { s.env with rxLevels := more }
      trace := s.trace ++ List.replicate (k + 1) (.rd 0x48#8 0#8)
      spins := log
      work := { s.work with iw := s.work.rb, count := s.work.total } } := by
  induction k with
  | zero =>
    intro s hp hk h
    have hx : s.work.iw = s.work.rb := BitVec.eq_of_toNat_eq hk
    refine ⟨s.spins, (execN_succ (exec_listen_poll_expired hl hp hx h) 0).trans ?_⟩
    rw [← hx]
    rfl
  | succ k ih =>
    intro s hp hk h
    have hnext : (s.work.iw + 1#16).toNat + k = s.work.rb.toNat := by bv_omega
    have hwait := execN_listen_waits hl hp (by bv_omega) h
    obtain ⟨log, hrun⟩ := ih (s := { s with
      phase := .busy (inside .poll)
      env := { s.env with rxLevels := List.replicate (k + 1) 0#8 ++ more }
      trace := s.trace ++ [.rd 0x48#8 0#8]
      spins := s.spins ++ [s.cfg.rxPollDelay]
      work := { s.work with iw := s.work.iw + 1#16 } }) rfl hnext rfl
    refine ⟨log, ?_⟩
    rw [show 2 * (k + 1) + 1 = 2 + (2 * k + 1) by omega]
    refine (execN_add 2 _ hwait).trans (hrun.trans ?_)
    simp [List.replicate_succ]

/-- A level that is not 0, read within the budget, sends RXWAIT to its re-read, from now on with the short budget (R125). -/
theorem exec_listen_poll_data {s : State} {v : Byte} {vs : List Byte} (hp : s.phase = .busy (inside .poll)) (hv : v ≠ 0#8)
    (hx : s.work.iw ≠ s.work.rb) (h : s.env.rxLevels = v :: vs) :
    exec i s = .next { s with
      phase := .busy (inside .reread)
      env := { s.env with rxLevels := vs }
      trace := s.trace ++ [.rd 0x48#8 v]
      work := { s.work with rb := BitVec.ofNat 16 s.cfg.rxMaxWait } } := by
  have hw : ¬ (v = 0#8 ∧ s.work.iw < s.work.rb) := fun ⟨h0, _⟩ => hv h0
  rw [exec_listen_poll hl hp, answer_rxlvl h, if_neg hw, if_neg hw, if_neg hx, if_neg hx]

/-- A re-read level within the free space is the size of the burst (R125). -/
theorem exec_listen_reread_fits {s : State} {v : Byte} {vs : List Byte} (hp : s.phase = .busy (inside .reread))
    (hfit : s.work.total.toNat + v.toNat ≤ s.cfg.rxCapacity) (h : s.env.rxLevels = v :: vs) :
    exec i s = .next { s with
      phase := .busy (inside .burst)
      env := { s.env with rxLevels := vs }
      trace := s.trace ++ [.rd 0x48#8 v]
      work := { s.work with level := v.setWidth 16, n := v.setWidth 16 } } := by
  have hclamp : min v.toNat (s.cfg.rxCapacity - s.work.total.toNat) = (v.setWidth 16).toNat :=
    (min_eq_left (by omega)).trans (zext16_toNat v).symm
  rw [exec_listen_reread hl hp, answer_rxlvl h]
  simp only [hclamp, BitVec.ofNat_toNat, BitVec.setWidth_eq]

/-- A burst takes its bytes off the receive FIFO (R125). -/
theorem exec_listen_burst_bytes {s : State} {bytes more : List Byte} (hp : s.phase = .busy (inside .burst))
    (hn : s.work.n.toNat = bytes.length) (hlen : bytes.length ≤ 255) (h : s.env.fifo = bytes ++ more) :
    exec i s = .next { s with
      phase := .busy (inside .store)
      env := { s.env with fifo := more }
      trace := s.trace ++ [.rb 0x00#8 (s.work.n.setWidth 8) bytes]
      work := { s.work with bs := bytes } } := by
  rw [exec_listen_burst hl hp (by omega), hn, answers_fifo bytes h]

/-- A message below the capacity that a wait sees, with nothing received before it: it is stored at the start of the buffer,
and the next wait has the short budget (R125). -/
theorem execN_listen_message {s : State} {a b : Byte} {bytes levels moreBytes : List Byte} (hlegal : s.cfg.Legal)
    (hp : s.phase = .busy (inside .poll)) (htotal : s.work.total = 0#16) (hbudget : s.work.iw ≠ s.work.rb)
    (ha : a ≠ 0#8) (hb : b.toNat < s.cfg.rxCapacity) (hlevels : s.env.rxLevels = a :: b :: levels)
    (hfifo : s.env.fifo = bytes ++ moreBytes) (hlen : bytes.length = b.toNat) :
    execN i 4 s = .next { s with
      phase := .busy (inside .poll)
      buf := Memory.setBytes s.buf 0 bytes
      env := { s.env with rxLevels := levels, fifo := moreBytes }
      trace := s.trace ++ [.rd 0x48#8 a, .rd 0x48#8 b, .rb 0x00#8 b bytes]
      work := { s.work with
        total := b.setWidth 16, rb := BitVec.ofNat 16 s.cfg.rxMaxWait, iw := 0#16
        level := b.setWidth 16, n := b.setWidth 16, bs := bytes } } := by
  have hzero : s.work.total.toNat = 0 := by rw [htotal]; rfl
  have hn : (b.setWidth 16).toNat = b.toNat := zext16_toNat b
  have hbyte := b.isLt
  have hroom : ¬ s.cfg.rxCapacity ≤ s.work.total.toNat + (b.setWidth 16).toNat := by omega
  rw [execN_succ (exec_listen_poll_data hl hp ha hbudget hlevels),
    execN_succ (exec_listen_reread_fits hl rfl (by simp only; omega) rfl),
    execN_succ (exec_listen_burst_bytes hl rfl (hn.trans hlen.symm) (by omega) (by exact hfifo)),
    execN_succ (exec_listen_store hl rfl (by exact hlegal) (by simp only; omega) (by simp only; omega)),
    if_neg hroom, if_neg hroom]
  simp [execN, htotal]

/-- The reception of a message below the capacity, that comes as one burst and is followed by silence: RXWAIT's count is its
length (R125, R126). -/
theorem listen_message_run {s : State} {a b : Byte} {bytes moreLevels moreBytes : List Byte} (hlegal : s.cfg.Legal)
    (hp : s.phase = .busy (inside .poll)) (htotal : s.work.total = 0#16) (hbudget : s.work.iw ≠ s.work.rb)
    (ha : a ≠ 0#8) (hb : b.toNat < s.cfg.rxCapacity)
    (hlevels : s.env.rxLevels = a :: b :: List.replicate (s.cfg.rxMaxWait + 1) 0#8 ++ moreLevels)
    (hfifo : s.env.fifo = bytes ++ moreBytes) (hlen : bytes.length = b.toNat) :
    ∃ n w log, w.count = b.setWidth 16 ∧ execN i n s = .next { s with
      phase := .busy behind
      buf := Memory.setBytes s.buf 0 bytes
      work := w
      env := { s.env with rxLevels := moreLevels, fifo := moreBytes }
      spins := log
      trace := s.trace ++ [.rd 0x48#8 a, .rd 0x48#8 b, .rb 0x00#8 b bytes]
        ++ List.replicate (s.cfg.rxMaxWait + 1) (.rd 0x48#8 0#8) } := by
  have hmessage := execN_listen_message hl hlegal hp htotal hbudget ha hb hlevels hfifo hlen
  have hshort : (0#16).toNat + s.cfg.rxMaxWait = (BitVec.ofNat 16 s.cfg.rxMaxWait).toNat :=
    (Nat.zero_add _).trans (toWord_toNat _ hlegal.rxMaxWait_le).symm
  obtain ⟨log, hsilence⟩ := listen_silence_run hl s.cfg.rxMaxWait (more := moreLevels) (s := { s with
    phase := .busy (inside .poll)
    buf := Memory.setBytes s.buf 0 bytes
    env := { s.env with rxLevels := List.replicate (s.cfg.rxMaxWait + 1) 0#8 ++ moreLevels, fifo := moreBytes }
    trace := s.trace ++ [.rd 0x48#8 a, .rd 0x48#8 b, .rb 0x00#8 b bytes]
    work := { s.work with
      total := b.setWidth 16, rb := BitVec.ofNat 16 s.cfg.rxMaxWait, iw := 0#16
      level := b.setWidth 16, n := b.setWidth 16, bs := bytes } }) rfl hshort rfl
  exact ⟨_, _, log, rfl, (execN_add 4 _ hmessage).trans hsilence⟩

end Runs

end Sys2Proof.Machine
end

section
/-! Whole runs of SEND (42_transmit.md R118, R120, R122): to a far end that stays silent, and with a reply. -/

namespace Sys2Proof.Machine

variable {len : Byte} {payload : List Byte}

/-- A run of SEND that has come to its finishing position completes, with RXWAIT's count in PENDING (R118, R122). -/
theorem send_completes {n : Nat} {s t : State} (h : execN (.send len payload) n s = .next t)
    (ht : t.phase = .busy (.send len payload .finish)) (hc : t.completions = s.completions) :
    Completes (.send len payload) s .done { t with
      phase := .idle
      pending := t.work.count.setWidth 8, bufDefined := t.work.count.toNat
      completions := s.completions ++ [.done] } := by
  have hend : exec (.send len payload) t = .next { t with
      phase := .idle
      pending := t.work.count.setWidth 8, bufDefined := t.work.count.toNat
      completions := s.completions ++ [.done] } := hc ▸ exec_busy ht
  exact ⟨⟨n + 1, (execN_add n 1 h).trans (execN_succ hend 0)⟩, rfl, rfl⟩

/-- SEND's reception of nothing, from its switch to receiver-only on (R118, R126(a)). -/
theorem send_silence_run {s : State} {silent : List Byte} (hlegal : s.cfg.Legal)
    (hp : s.phase = .busy (.send len payload .rxOn))
    (h : s.env.rxLevels = List.replicate (s.cfg.rxLongWait + 1) 0#8 ++ silent) :
    ∃ n w log, w.count = 0#16 ∧ execN (.send len payload) n s = .next { s with
      phase := .busy (.send len payload .finish)
      work := w
      env := { s.env with rxLevels := silent }
      spins := log
      trace := s.trace ++ [.wr 0x78#8 s.cfg.efcrRxOnly] ++ List.replicate (s.cfg.rxLongWait + 1) (.rd 0x48#8 0#8) } := by
  have hbudget : (0#16).toNat + s.cfg.rxLongWait = (BitVec.ofNat 16 s.cfg.rxLongWait).toNat :=
    (Nat.zero_add _).trans (toWord_toNat _ hlegal.rxLongWait_le).symm
  obtain ⟨log, hrun⟩ := listen_silence_run (.send len payload) s.cfg.rxLongWait (s := { s with
    phase := .busy (.send len payload (.listen .poll))
    trace := s.trace ++ [.wr 0x78#8 s.cfg.efcrRxOnly]
    work := { s.work with total := 0#16, rb := BitVec.ofNat 16 s.cfg.rxLongWait, iw := 0#16 } }) rfl hbudget h
  exact ⟨_, _, log, rfl, (execN_succ (exec_send_rxOn hp) _).trans hrun⟩

/-- What is left of a SEND whose payload is queued, when the transmitter drains and the far end stays silent (R118, R121). -/
theorem send_drain_silence_run {s : State} {busy more silent : List Byte} {v : Byte} (hlegal : s.cfg.Legal)
    (hp : s.phase = .busy (.send len payload .drain)) (hstatus : s.env.lineStatus = busy ++ v :: more)
    (hbusy : ∀ x ∈ busy, x &&& s.cfg.lsrTxEmptyMask = 0#8) (hv : v &&& s.cfg.lsrTxEmptyMask ≠ 0#8)
    (hlevels : s.env.rxLevels = List.replicate (s.cfg.rxLongWait + 1) 0#8 ++ silent) :
    ∃ n w log, w.count = 0#16 ∧ execN (.send len payload) n s = .next { s with
      phase := .busy (.send len payload .finish)
      work := w
      env := { s.env with lineStatus := more, rxLevels := silent }
      spins := log
      trace := s.trace ++ busy.map (fun x => .rd 0x28#8 x) ++ [.rd 0x28#8 v] ++ [.wr 0x78#8 s.cfg.efcrRxOnly]
        ++ List.replicate (s.cfg.rxLongWait + 1) (.rd 0x48#8 0#8) } := by
  obtain ⟨wd, hdrain⟩ := send_drain_run hp hstatus hbusy hv
  obtain ⟨n, w, log, hcount, hrun⟩ := send_silence_run (s := { s with
    phase := .busy (.send len payload .rxOn)
    work := wd
    env := { s.env with lineStatus := more }
    trace := s.trace ++ busy.map (fun x => .rd 0x28#8 x) ++ [.rd 0x28#8 v] }) hlegal rfl hlevels
  exact ⟨_, w, log, hcount, (execN_add _ n hdrain).trans hrun⟩

/-- In a session SEND is taken (R32, R142). -/
theorem exec_send_idle {s : State} (hp : s.phase = .idle) (hs : s.inSession = true) :
    exec (.send len payload) s = .next (s.goTo (.send len payload .txOn)) := by
  rw [exec_idle _ hp, if_pos (show admitted (.send len payload) s = true from hs)]
  rfl

/-- A short payload is queued in two steps (R120). -/
theorem send_short_run {s : State} (hp : s.phase = .busy (.send len payload .txOn))
    (hs : len.toNat ≤ s.cfg.txSingleBurstMax) (hpayload : payload.length = len.toNat) :
    execN (.send len payload) 2 s = .next { s with
      phase := .busy (.send len payload .drain)
      trace := s.trace ++ [.wr 0x78#8 s.cfg.efcrTxOnly, .wb 0x00#8 payload] } := by
  rw [execN_succ (exec_send_txOn_short hp hs), execN_succ (exec_send_single rfl)]
  simp [execN, ← hpayload]

/-- Settles O37: the single burst, the drain and the silent reception, one after the other. -/
theorem sendWithoutReplyCompletes : Obligations.SendWithoutReplyCompletes := by
  unfold Obligations.SendWithoutReplyCompletes
  intro s len payload busy more silent v hp hs hlegal hwf hshort hstatus hbusy hv hlevels
  have hqueue := send_short_run (s := s.goTo (.send len payload .txOn)) rfl hshort (payload_length hwf)
  obtain ⟨n, w, log, hcount, hrun⟩ := send_drain_silence_run (len := len) (payload := payload) (s := { s with
    phase := .busy (.send len payload .drain)
    trace := s.trace ++ [.wr 0x78#8 s.cfg.efcrTxOnly, .wb 0x00#8 payload] }) hlegal rfl hstatus hbusy hv hlevels
  have hfinish := (execN_succ (exec_send_idle hp hs) _).trans ((execN_add 2 n hqueue).trans hrun)
  refine ⟨w, log, ?_⟩
  simpa [hp, hcount] using send_completes hfinish rfl rfl

/-- With a nonzero TX level for each of its bytes, a payload of any length is queued (R120). -/
theorem send_queue_run {s : State} {levels moreLevels : List Byte} (hp : s.phase = .busy (.send len payload .txOn))
    (hlevels : s.env.txLevels = levels ++ moreLevels) (hroom : ∀ x ∈ levels, x ≠ 0#8)
    (hlen : len.toNat ≤ levels.length) :
    ∃ n work rest trace, execN (.send len payload) n s = .next { s with
      phase := .busy (.send len payload .drain)
      work := work, env := { s.env with txLevels := rest }, trace := trace } := by
  rcases le_or_gt len.toNat s.cfg.txSingleBurstMax with hshort | hlong
  · have hrun := (execN_succ (exec_send_txOn_short hp hshort) 1).trans (execN_succ (exec_send_single rfl) 0)
    exact ⟨2, s.work, s.env.txLevels, _, hrun⟩
  · have hremaining : (len.setWidth 16).toNat = len.toNat := zext16_toNat len
    obtain ⟨n, work, rest, trace, hrun, -⟩ := send_chunks_run (payload := payload) levels (s := { s with
      phase := .busy (.send len payload (.queue .poll))
      trace := s.trace ++ [.wr 0x78#8 s.cfg.efcrTxOnly]
      work := { s.work with offset := 0#16, remaining := len.setWidth 16 } }) rfl
      ⟨(Nat.zero_add _).trans hremaining, by simp only [hremaining]; omega⟩ hlevels hroom (hremaining.trans_le hlen)
    exact ⟨_, work, rest, trace, (execN_succ (exec_send_txOn_long hp hlong) n).trans hrun⟩

/-- Settles O39: the payload is queued on either way, the transmitter drains and the reception sees nothing; what is behind SEND
at its finishing position is its payload. -/
theorem sendOfAnyLengthCompletes : Obligations.SendOfAnyLengthCompletes := by
  unfold Obligations.SendOfAnyLengthCompletes
  intro s len payload busy more levels moreLevels silent v hp hs hlegal hwf htx hroom hlen hstatus hbusy hv hrx
  obtain ⟨n, work, rest, trace, hqueue⟩ :=
    send_queue_run (payload := payload) (s := s.goTo (.send len payload .txOn)) rfl htx hroom hlen
  obtain ⟨m, w, log, hcount, hsilence⟩ := send_drain_silence_run (len := len) (payload := payload) (s := { s with
    phase := .busy (.send len payload .drain)
    work := work, env := { s.env with txLevels := rest }, trace := trace }) hlegal rfl hstatus hbusy hv hrx
  have hrun := (execN_add n m hqueue).trans hsilence
  obtain ⟨q, hq, hbytes⟩ := send_run_queuedBytes (s := s.goTo (.send len payload .txOn)) rfl
    ⟨hlegal, hs, hwf, trivial⟩ hrun rfl
  cases hq
  refine ⟨_, send_completes ((execN_succ (exec_send_idle hp hs) _).trans hrun) rfl rfl, ?_, hs, hbytes⟩
  rw [hcount]
  rfl

/-- What stands in a buffer behind a store at its start (R58). -/
theorem Memory.get_setBytes_zero (bs : List Byte) (m : List Host.Cell) (j : Nat) :
    Memory.get (Memory.setBytes m 0 bs) j = if j < bs.length then bs[j]? else Memory.get m j := by
  rw [Memory.get_setBytes]
  by_cases h : j < bs.length <;> simp [h]

/-- Settles O40: the wait sees the reply, the next wait sees nothing, and RXWAIT's count is the reply's length. -/
theorem sendCachesTheReply : Obligations.SendCachesTheReply := by
  unfold Obligations.SendCachesTheReply
  intro s len a b payload bytes moreLevels moreBytes hs hp ha hb hcap hlong hlevels hfifo hlen
  have hbudget : 0#16 ≠ BitVec.ofNat 16 s.cfg.rxLongWait := fun h0 => by
    have hword := toWord_toNat _ hs.legal.rxLongWait_le
    rw [show toWord s.cfg.rxLongWait = 0#16 from h0.symm, BitVec.toNat_ofNat] at hword
    omega
  obtain ⟨n, w, log, hcount, hrun⟩ := listen_message_run (.send len payload) (s := { s with
    phase := .busy (.send len payload (.listen .poll))
    trace := s.trace ++ [.wr 0x78#8 s.cfg.efcrRxOnly]
    work := { s.work with total := 0#16, rb := BitVec.ofNat 16 s.cfg.rxLongWait, iw := 0#16 } })
    hs.legal rfl rfl hbudget ha hcap hlevels hfifo hlen
  have hdone := send_completes ((execN_succ (exec_send_rxOn hp) n).trans hrun) rfl rfl
  refine ⟨w, _, log, ?_, fun j => hlen ▸ Memory.get_setBytes_zero bytes s.buf j⟩
  have hwide : (b.setWidth 16).toNat = b.toNat := zext16_toNat b
  simpa [-BitVec.toNat_setWidth, hcount, hwide] using hdone

end Sys2Proof.Machine
end

section
/-! What a step of SEND leaves unchanged (42_transmit.md R118, R120, R121; 43_receive.md R125): the working register `k`, and
every byte of the buffer but those of its store. -/

namespace Sys2Proof.Machine

/-- RXWAIT works on registers of its own (R28, R125). -/
theorem rxwaitStep_keeps {p : RxPos} {s : State} {c : Option RxPos × State} (h : rxwaitStep p s = .next c) :
    c.2.work.k = s.work.k ∧ c.2.work.offset = s.work.offset ∧ c.2.work.remaining = s.work.remaining ∧
      c.2.work.lsr = s.work.lsr := by
  cases p with
  | poll =>
    cases h
    rcases rxwaitPolled_cases (s.readByte .rxlvl).1 (s.readByte .rxlvl).2 with ⟨-, e⟩ | ⟨-, -, e⟩ | ⟨-, -, e⟩ <;>
      rw [e]
    · simp
    · simp [rxwaitReturn]
    · simp
  | pause => cases h; simp
  | reread => cases h; simp [rxwaitLevel]
  | burst => cases h; simp
  | store =>
    rcases rxwaitStep_cases h with ⟨hne, -⟩ | ⟨-, -, -, rfl⟩
    · exact absurd rfl hne
    · rcases rxwaitStored_cases s.stored with ⟨-, e⟩ | ⟨-, e⟩ <;> rw [e] <;> exact ⟨rfl, rfl, rfl, rfl⟩

/-- A byte the store does not reach reads as before (R58, R125). -/
theorem rxwaitStep_outside {p : RxPos} {s : State} {c : Option RxPos × State} (h : rxwaitStep p s = .next c) {a : Nat}
    (ha : a < s.work.total.toNat ∨ s.work.total.toNat + s.work.n.toNat ≤ a) :
    Memory.get c.2.buf a = Memory.get s.buf a := by
  rcases rxwaitStep_cases h with ⟨-, hq⟩ | ⟨-, -, hlen, rfl⟩
  · rw [hq.buf]
  · rw [(quiet_rxwaitStored s.stored).buf, State.stored, Memory.get_setBytes, dif_neg (by omega)]

/-- A call that goes on in either way leaves the registers as the procedure left them. -/
theorem callProc_goTo_work {π : Type} (c : Option π × State) (inside : π → Running) (behind : Running) :
    (callProc c (fun p t => t.goTo (inside p)) (fun t => t.goTo behind)).work = c.2.work :=
  callProc_ind (P := fun t : State => t.work = c.2.work) c _ _ (fun _ => rfl) rfl

/-- So it does the buffer. -/
theorem callProc_goTo_buf {π : Type} (c : Option π × State) (inside : π → Running) (behind : Running) :
    (callProc c (fun p t => t.goTo (inside p)) (fun t => t.goTo behind)).buf = c.2.buf :=
  callProc_ind (P := fun t : State => t.buf = c.2.buf) c _ _ (fun _ => rfl) rfl

theorem txqueueStep_k (len : Byte) (payload : List Byte) (p : TxPos) (s : State) :
    (txqueueStep len payload p s).2.work.k = s.work.k := by
  cases p with
  | single => rfl
  | poll =>
    simp only [txqueueStep]
    split <;> simp [txqueueHead]
  | burst => rfl

theorem sendStep_k {len : Byte} {payload : List Byte} {p : SendPos} {s t : State}
    (h : sendStep len payload p s = .next t) : t.work.k = s.work.k := by
  cases p with
  | txOn =>
    cases h
    rw [callProc_goTo_work, txqueueEnter]
    split <;> rfl
  | queue q =>
    cases h
    rw [callProc_goTo_work, txqueueStep_k]
  | drain =>
    cases h
    rw [callProc_goTo_work (txdrainStep s)]
    simp [txdrainStep]
  | rxOn => cases h; rfl
  | listen q =>
    obtain ⟨c, hc, rfl⟩ := mapNext_eq_next h
    obtain ⟨hk, -⟩ := rxwaitStep_keeps hc
    rw [callProc_goTo_work, hk]
  | finish => cases h; rfl

/-- A step inside RXWAIT, in either of the commands that run it. -/
theorem listenStep_outside {q : RxPos} {s t : State} {inside : RxPos → Running} {behind : Running}
    (h : mapNext (fun c => callProc c (fun p u => u.goTo (inside p)) (fun u => u.goTo behind)) (rxwaitStep q s) = .next t)
    {a : Nat} (ha : a < s.work.total.toNat ∨ s.work.total.toNat + s.work.n.toNat ≤ a) :
    Memory.get t.buf a = Memory.get s.buf a := by
  obtain ⟨c, hc, rfl⟩ := mapNext_eq_next h
  rw [callProc_goTo_buf, rxwaitStep_outside hc ha]

/-- Settles O54: of the effects of a running SEND's step only RXWAIT's store writes the buffer and only SEND's end writes
PENDING; and in IDLE a SEND is refused only outside a session. -/
theorem sendFrame : Obligations.SendFrame := by
  unfold Obligations.SendFrame
  intro s t len payload h
  obtain ⟨hp, rfl⟩ | ⟨r, hp, hinstr, hr⟩ | rfl := exec_cases h
  · cases hs : s.inSession with
    | true =>
      rw [if_pos (show admitted (.send len payload) s = true from hs)]
      exact ⟨rfl, rfl, hs, rfl, rfl, rfl, fun _ => ⟨rfl, rfl, rfl⟩, fun _ => ⟨rfl, rfl⟩, fun _ _ => rfl,
        fun _ _ => rfl⟩
    | false =>
      rw [if_neg (show ¬ admitted (.send len payload) s = true by simp [admitted, hs])]
      exact ⟨rfl, rfl, hs, rfl, rfl, rfl, fun _ => ⟨rfl, rfl, rfl⟩,
        fun hbusy => absurd hbusy (by simp [hp]), fun _ _ => rfl, fun _ _ => rfl⟩
  · have hk : t.work.k = s.work.k := by
      cases r with
      | init | beginSession | endSession | recv => cases hinstr
      | send => exact sendStep_k hr
    cases runningStep_effect hr with
    | quiet _ r' u hq =>
      exact ⟨hq.cfg, hq.initialized, hq.inSession, hq.bufReads, hq.requests, hk,
        fun _ => ⟨hq.pending, hq.bufDefined, hq.completions⟩, fun _ => ⟨hq.fault, hq.faultInfo⟩,
        fun _ a => congrArg (Memory.get · a) hq.buf, fun a _ => congrArg (Memory.get · a) hq.buf⟩
    | stored i inside behind r' u hl hq =>
      cases hl with
      | recv => cases hinstr
      | send =>
        cases hinstr
        exact ⟨hq.cfg, hq.initialized, hq.inSession, hq.bufReads, hq.requests, hk,
          fun _ => ⟨hq.pending, hq.bufDefined, hq.completions⟩, fun _ => ⟨hq.fault, hq.faultInfo⟩,
          fun hne => absurd hp hne, fun a ha => listenStep_outside hr ha⟩
    | sendDone =>
      cases hinstr
      exact ⟨rfl, rfl, rfl, rfl, rfl, rfl, fun hne => absurd hp hne, fun _ => ⟨rfl, rfl⟩, fun _ _ => rfl, fun _ _ => rfl⟩
    | broughtUp | initDone | beginDone | endDone | recvCached | recvDone => cases hinstr
  · exact ⟨rfl, rfl, rfl, rfl, rfl, rfl, fun _ => ⟨rfl, rfl, rfl⟩, fun _ => ⟨rfl, rfl⟩, fun _ _ => rfl, fun _ _ => rfl⟩

end Sys2Proof.Machine
end

section
/-! Runs of RECV (43_receive.md R127, R128): what a cached count comes to, and how a fresh reception goes on a
queue of answers: nothing comes, one message comes, or one comes that fills the buffer (R126); and RXWAIT's empty passes
(R133(b)). -/

namespace Sys2Proof.Machine

/-- In a session RECV is taken (R32, R142). -/
theorem exec_recv_idle {s : State} (hp : s.phase = .idle) (hs : s.inSession = true) :
    exec .recv s = .next (s.goTo (.recv (recvEntry s))) := by
  rw [exec_idle _ hp, if_pos (show admitted .recv s = true from hs)]
  rfl

/-- RECV's re-arming resets the FIFOs first (R107, R127). -/
theorem exec_recv_fifo {s : State} (hp : s.phase = .busy (.recv (.rearm .fifo))) :
    exec .recv s = .next { s with
      phase := .busy (.recv (.rearm .receiver))
      trace := s.trace ++ [.wr 0x10#8 s.cfg.fcrResetEnable] } :=
  exec_busy hp

/-- RECV's switch to reception enters RXWAIT with the short budget (R125, R127). -/
theorem exec_recv_receiver {s : State} (hp : s.phase = .busy (.recv (.rearm .receiver))) :
    exec .recv s = .next { s with
      phase := .busy (.recv (.listen .poll))
      trace := s.trace ++ [.wr 0x78#8 s.cfg.efcrRxOnly]
      work := { s.work with total := 0#16, rb := BitVec.ofNat 16 s.cfg.rxMaxWait, iw := 0#16 } } :=
  exec_busy hp

/-- The block at RECV's first wait: the receiver is re-armed and the short budget stands (R107, R125, R127). -/
def State.rearmed (s : State) : State := { s with
  phase := .busy (.recv (.listen .poll))
  trace := s.trace ++ [.wr 0x10#8 s.cfg.fcrResetEnable, .wr 0x78#8 s.cfg.efcrRxOnly]
  work := { s.work with total := 0#16, rb := BitVec.ofNat 16 s.cfg.rxMaxWait, iw := 0#16 } }

theorem recv_rearm_run {s : State} (hp : s.phase = .idle) (hs : s.inSession = true) (h0 : s.pending = 0#8) :
    execN .recv 3 s = .next s.rearmed := by
  have hentry : recvEntry s = .rearm .fifo := if_pos h0
  rw [execN_succ (exec_recv_idle hp hs), hentry, execN_succ (exec_recv_fifo (goTo_phase _ _)),
    execN_succ (exec_recv_receiver rfl)]
  simp [execN, State.rearmed, State.goTo]

/-- A run of RECV that has come to its finishing position completes, with RXWAIT's count (R76, R127). -/
theorem recv_completes {n : Nat} {s t : State} (h : execN .recv n s = .next t) (ht : t.phase = .busy (.recv .finish))
    (hc : t.completions = s.completions) :
    Completes .recv s (.count (t.work.count.setWidth 8)) { t with
      phase := .idle
      bufDefined := t.work.count.toNat
      completions := s.completions ++ [.count (t.work.count.setWidth 8)] } := by
  have hend : exec .recv t = .next { t with
      phase := .idle
      bufDefined := t.work.count.toNat
      completions := s.completions ++ [.count (t.work.count.setWidth 8)] } := hc ▸ exec_busy ht
  exact ⟨⟨n + 1, (execN_add n 1 h).trans (execN_succ hend 0)⟩, rfl, rfl⟩

/-- A wait with a budget does not start with it used up (R12, R28). -/
theorem zero_ne_budget {b : Nat} (hpos : 0 < b) (hle : b ≤ 65535) : 0#16 ≠ BitVec.ofNat 16 b := by
  intro h0
  have hword : (BitVec.ofNat 16 b).toNat = b := toWord_toNat b hle
  rw [← h0] at hword
  exact hpos.ne hword

/-- Settles O45: behind its re-arming RECV's wait is silent to the end of its budget, and RXWAIT's count is 0. -/
theorem freshReceiveOfSilenceReturnsZero : Obligations.FreshReceiveOfSilenceReturnsZero := by
  unfold Obligations.FreshReceiveOfSilenceReturnsZero
  intro s more hp hs h0 hlegal hlevels
  have hbudget : (0#16).toNat + s.cfg.rxMaxWait = (BitVec.ofNat 16 s.cfg.rxMaxWait).toNat :=
    (Nat.zero_add _).trans (toWord_toNat _ hlegal.rxMaxWait_le).symm
  obtain ⟨log, hsilence⟩ := listen_silence_run .recv s.cfg.rxMaxWait (s := s.rearmed) rfl hbudget hlevels
  have hdone := recv_completes ((execN_add 3 _ (recv_rearm_run hp hs h0)).trans hsilence) rfl rfl
  exact ⟨_, log, by simpa [State.rearmed, hp] using hdone⟩

/-- Settles O46: the first wait sees the message, the next one sees nothing, and RXWAIT's count is the message's length. -/
theorem freshReceiveDeliversAMessage : Obligations.FreshReceiveDeliversAMessage := by
  unfold Obligations.FreshReceiveDeliversAMessage
  intro s a b bytes moreLevels moreBytes hinv hp hs h0 ha hb hcap hwait hlevels hfifo hlen
  have hbudget := zero_ne_budget hwait hinv.legal.rxMaxWait_le
  obtain ⟨n, w, log, hcount, hrun⟩ := listen_message_run .recv (s := s.rearmed) hinv.legal rfl rfl hbudget ha hcap
    hlevels hfifo hlen
  have hdone := recv_completes ((execN_add 3 n (recv_rearm_run hp hs h0)).trans hrun) rfl rfl
  refine ⟨w, _, log, ?_, fun j => hlen ▸ Memory.get_setBytes_zero bytes s.buf j⟩
  have hwide : (b.setWidth 16).toNat = b.toNat := zext16_toNat b
  simpa [-BitVec.toNat_setWidth, State.rearmed, hp, hcount, hwide] using hdone

/-- The invariant gives the condition of RXWAIT's position, in either of the commands that run it (R52, R125). -/
theorem rxOk_of_inv {i : Instr} {inside : RxPos → Running} {behind : Running} (hl : Listener i inside behind) {s : State}
    {p : RxPos} (h : s.Inv) (hp : s.phase = .busy (inside p)) : RxOk s p := by
  obtain ⟨-, -, hok⟩ : PhaseOk s (.busy (inside p)) := hp ▸ h.phase
  cases hl with
  | recv => obtain ⟨-, -, hrx⟩ := hok; exact hrx
  | send => obtain ⟨-, -, hrx⟩ := hok; exact hrx

section Bursts

variable {i : Instr} {inside : RxPos → Running} {behind : Running} (hl : Listener i inside behind) {s : State}
  {a b : Byte} {bytes levels moreBytes : List Byte}

include hl

/-- A store that leaves free space begins the next wait (R125). -/
theorem exec_listen_store_room (hp : s.phase = .busy (inside .store)) (hlegal : s.cfg.Legal)
    (hroom : s.work.total.toNat + s.work.n.toNat < s.cfg.rxCapacity) (hbs : s.work.bs.length = s.work.n.toNat) :
    exec i s = .next { s with
      buf := Memory.setBytes s.buf s.work.total.toNat s.work.bs
      phase := .busy (inside .poll)
      work := { s.work with total := s.work.total + s.work.n, iw := 0#16 } } := by
  rw [exec_listen_store hl hp hlegal hroom.le hbs, if_neg hroom.not_ge, if_neg hroom.not_ge]

/-- A store that fills the buffer ends the reception (R125, R126(e)). -/
theorem exec_listen_store_full (hp : s.phase = .busy (inside .store)) (hlegal : s.cfg.Legal)
    (hfull : s.work.total.toNat + s.work.n.toNat = s.cfg.rxCapacity) (hbs : s.work.bs.length = s.work.n.toNat) :
    exec i s = .next { s with
      buf := Memory.setBytes s.buf s.work.total.toNat s.work.bs
      phase := .busy behind
      work := { s.work with total := s.work.total + s.work.n, count := s.work.total + s.work.n } } := by
  rw [exec_listen_store hl hp hlegal hfull.le hbs, if_pos hfull.ge, if_pos hfull.ge]

/-- A wait that sees data within its budget brings RXWAIT to the store of one burst: what the re-read level gives, clamped to
the buffer's free space (R125, R126(d), R126(e)). -/
theorem execN_listen_burst (hp : s.phase = .busy (inside .poll)) (hbudget : s.work.iw ≠ s.work.rb) (ha : a ≠ 0#8)
    (hlevels : s.env.rxLevels = a :: b :: levels) (hfifo : s.env.fifo = bytes ++ moreBytes)
    (hlen : bytes.length = min b.toNat (s.cfg.rxCapacity - s.work.total.toNat)) :
    execN i 3 s = .next { s with
      phase := .busy (inside .store)
      env := { s.env with rxLevels := levels, fifo := moreBytes }
      trace := s.trace ++ [.rd 0x48#8 a, .rd 0x48#8 b, .rb 0x00#8 (BitVec.ofNat 8 bytes.length) bytes]
      work := { s.work with
        rb := BitVec.ofNat 16 s.cfg.rxMaxWait, level := b.setWidth 16
        n := BitVec.ofNat 16 bytes.length, bs := bytes } } := by
  have hbyte := b.isLt
  have hn : (BitVec.ofNat 16 bytes.length).toNat = bytes.length := toWord_toNat _ (by omega)
  have hreread := exec_listen_reread hl (s := { s with
    phase := .busy (inside .reread)
    env := { s.env with rxLevels := b :: levels }
    trace := s.trace ++ [.rd 0x48#8 a]
    work := { s.work with rb := BitVec.ofNat 16 s.cfg.rxMaxWait } }) rfl
  rw [answer_rxlvl rfl] at hreread
  simp only [← hlen] at hreread
  rw [execN_succ (exec_listen_poll_data hl hp ha hbudget hlevels), execN_succ hreread,
    execN_succ (exec_listen_burst_bytes hl rfl hn (by omega) (by exact hfifo))]
  simp [execN, BitVec.setWidth_ofNat_of_le]

/-- A level of at least the free space fills the buffer and ends the reception (R126(e)). -/
theorem execN_listen_fills (hlegal : s.cfg.Legal) (hp : s.phase = .busy (inside .poll)) (hbudget : s.work.iw ≠ s.work.rb)
    (ha : a ≠ 0#8) (hlevels : s.env.rxLevels = a :: b :: levels) (hfifo : s.env.fifo = bytes ++ moreBytes)
    (hlen : s.work.total.toNat + bytes.length = s.cfg.rxCapacity) (hb : bytes.length ≤ b.toNat) :
    ∃ w, w.count = s.work.total + BitVec.ofNat 16 bytes.length ∧ execN i 4 s = .next { s with
      phase := .busy behind
      buf := Memory.setBytes s.buf s.work.total.toNat bytes
      work := w
      env := { s.env with rxLevels := levels, fifo := moreBytes }
      trace := s.trace ++ [.rd 0x48#8 a, .rd 0x48#8 b, .rb 0x00#8 (BitVec.ofNat 8 bytes.length) bytes] } := by
  have hbyte := b.isLt
  have hn : (BitVec.ofNat 16 bytes.length).toNat = bytes.length := toWord_toNat _ (by omega)
  have hburst := execN_listen_burst hl hp hbudget ha hlevels hfifo (by omega)
  exact ⟨_, rfl, (execN_add 3 1 hburst).trans
    (execN_succ (exec_listen_store_full hl rfl (by exact hlegal) (by simp only [hn, hlen]) hn.symm) 0)⟩

/-- An empty re-read costs a pass: RXWAIT is back at its wait, with nothing received (R126(d), R144). -/
theorem execN_listen_empty (hlegal : s.cfg.Legal) (hp : s.phase = .busy (inside .poll))
    (hroom : s.work.total.toNat < s.cfg.rxCapacity) (hbudget : s.work.iw ≠ s.work.rb) (ha : a ≠ 0#8)
    (hlevels : s.env.rxLevels = a :: 0#8 :: levels) :
    execN i 4 s = .next { s with
      env := { s.env with rxLevels := levels }
      trace := s.trace ++ [.rd 0x48#8 a, .rd 0x48#8 0#8, .rb 0x00#8 0#8 []]
      work := { s.work with
        rb := BitVec.ofNat 16 s.cfg.rxMaxWait, iw := 0#16, level := 0#16, n := 0#16, bs := [] } } := by
  have hburst := execN_listen_burst hl (bytes := []) (moreBytes := s.env.fifo) hp hbudget ha hlevels rfl
    (Nat.zero_min _).symm
  refine (execN_add 3 1 hburst).trans ?_
  rw [execN_succ (exec_listen_store_room hl rfl (by exact hlegal) (by exact hroom) rfl)]
  simp [execN, hp, Memory.setBytes]

/-- Any number of empty re-reads hold RXWAIT at its wait (R133(b)). -/
theorem listen_empty_run (ha : a ≠ 0#8) (n : Nat) : ∀ {s : State},
    0 < s.cfg.rxMaxWait → s.cfg.Legal → s.phase = .busy (inside .poll) → s.work.total.toNat < s.cfg.rxCapacity →
    s.work.iw ≠ s.work.rb → s.env.rxLevels = (List.replicate n [a, 0#8]).flatten ++ levels →
    ∃ w, w.total = s.work.total ∧ execN i (4 * n) s = .next { s with
      work := w
      env := { s.env with rxLevels := levels }
      trace := s.trace ++ (List.replicate n [.rd 0x48#8 a, .rd 0x48#8 0#8, .rb 0x00#8 0#8 []]).flatten } := by
  induction n with
  | zero =>
    rintro s - - - - - rfl
    exact ⟨s.work, rfl, by simp [execN]⟩
  | succ n ih =>
    intro s hwait hlegal hp hroom hbudget hlevels
    have hpass := execN_listen_empty hl (levels := (List.replicate n [a, 0#8]).flatten ++ levels) hlegal hp hroom hbudget ha
      hlevels
    obtain ⟨w, htotal, hrun⟩ := ih (s := { s with
      env := { s.env with rxLevels := (List.replicate n [a, 0#8]).flatten ++ levels }
      trace := s.trace ++ [.rd 0x48#8 a, .rd 0x48#8 0#8, .rb 0x00#8 0#8 []]
      work := { s.work with
        rb := BitVec.ofNat 16 s.cfg.rxMaxWait, iw := 0#16, level := 0#16, n := 0#16, bs := [] } })
      hwait hlegal hp hroom (zero_ne_budget hwait hlegal.rxMaxWait_le) rfl
    refine ⟨w, htotal, ?_⟩
    rw [Nat.mul_succ, Nat.add_comm]
    refine (execN_add 4 _ hpass).trans (hrun.trans ?_)
    simp [List.replicate_succ]

end Bursts

/-- Settles O47: the first wait's burst is clamped to the whole buffer, and its store ends the reception. -/
theorem freshReceiveStopsAtTheCapacity : Obligations.FreshReceiveStopsAtTheCapacity := by
  unfold Obligations.FreshReceiveStopsAtTheCapacity
  intro s a b bytes moreLevels moreBytes hinv hp hs h0 ha hcap hwait hlevels hfifo hlen
  have hbudget := zero_ne_budget hwait hinv.legal.rxMaxWait_le
  have hcapacity := hinv.legal.rxCapacity_le
  have hn : (BitVec.ofNat 16 bytes.length).toNat = bytes.length := toWord_toNat _ (by omega)
  obtain ⟨w, hcount, hfills⟩ := execN_listen_fills .recv (s := s.rearmed) hinv.legal rfl hbudget ha hlevels hfifo
    ((Nat.zero_add _).trans hlen) (hlen.trans_le hcap)
  have hdone := recv_completes ((execN_add 3 4 (recv_rearm_run hp hs h0)).trans hfills) rfl rfl
  refine ⟨w, _, ?_, fun j => hlen ▸ Memory.get_setBytes_zero bytes s.buf j⟩
  simp only [hcount] at hdone
  rw [hlen] at hn hdone
  simpa [-BitVec.toNat_ofNat, State.rearmed, hp, hn, BitVec.setWidth_ofNat_of_le] using hdone

/-- Settles O50, by induction on the number of passes: each leaves RXWAIT at its wait with the short budget. -/
theorem zeroRereadsHoldReceptionForEver : Obligations.ZeroRereadsHoldReceptionForEver := by
  unfold Obligations.ZeroRereadsHoldReceptionForEver
  intro s i inside behind a more n hinv hl hp hiw hrb hwait ha hlevels
  obtain ⟨hroom, -⟩ := rxOk_of_inv hl hinv hp
  exact listen_empty_run hl ha n hwait hinv.legal hp hroom (hiw ▸ hrb.symm) hlevels

/-- RECV's cached path delivers PENDING and clears it (R127). -/
theorem exec_recv_cached {s : State} (hp : s.phase = .busy (.recv .cached)) :
    exec .recv s = .next ({ s with pending := 0#8 }.complete (.count s.pending)) := exec_busy hp

/-- Settles O44: RECV is taken and delivers the cached count, in two steps. -/
theorem cachedCountIsDeliveredOnce : Obligations.CachedCountIsDeliveredOnce := by
  unfold Obligations.CachedCountIsDeliveredOnce
  intro s hp hs hne
  have hentry : recvEntry s = .cached := if_neg hne
  have hrun : execN .recv 2 s = .next ({ s with pending := 0#8 }.complete (.count s.pending)) := by
    rw [execN_succ (exec_recv_idle hp hs), hentry, execN_succ (exec_recv_cached (goTo_phase _ _))]
    rfl
  refine ⟨⟨2, hrun.trans ?_⟩, hp, rfl⟩
  simp [State.complete, hp]

end Sys2Proof.Machine
end

section
/-! The end of RXWAIT under E-MONO (43_receive.md R133(a)): each pass of the reception stores a byte or more, so the
free space bounds the passes and the budget bounds the reads of each wait. -/

namespace Sys2Proof.Machine

/-- Command `i` comes to the end of its reception, with at most `k` bus events on the way. -/
def EndsWithin (i : Instr) (behind : Running) (s : State) (k : Nat) : Prop :=
  ∃ n t es, execN i n s = .next t ∧ t.phase = .busy behind ∧ t.completions = s.completions ∧
    t.trace = s.trace ++ es ∧ es.length ≤ k

theorem endsWithin_behind {i : Instr} {behind : Running} {s : State} (hp : s.phase = .busy behind) (k : Nat) :
    EndsWithin i behind s k :=
  ⟨0, s, [], rfl, hp, rfl, (List.append_nil _).symm, Nat.zero_le k⟩

/-- A step in front of a run that ends adds its own events. -/
theorem EndsWithin.after {i : Instr} {behind : Running} {s u : State} {es : List BusEvent} {k m : Nat}
    (h : EndsWithin i behind u k) (hu : exec i s = .next u) (hc : u.completions = s.completions)
    (ht : u.trace = s.trace ++ es) (hm : es.length + k ≤ m) : EndsWithin i behind s m := by
  obtain ⟨n, t, fs, hrun, hp, hct, htt, hlen⟩ := h
  refine ⟨n + 1, t, es ++ fs, (execN_succ hu n).trans hrun, hp, hct.trans hc, ?_, ?_⟩
  · rw [htt, ht, List.append_assoc]
  · rw [List.length_append]
    omega

/-- E-MONO goes on behind a step of the command that has not completed. -/
theorem EMono.after {i : Instr} {inside : RxPos → Running} {s u : State} (h : EMono i inside s)
    (hu : exec i s = .next u) (hc : u.completions = s.completions) : EMono i inside u :=
  fun n t hn ht => h (n + 1) t ((execN_succ hu n).trans hn) (ht.trans hc)

/-- The bus events RXWAIT may still issue from its wait: a pass for each free byte, and what is left of the budget. -/
def State.waitBound (s : State) : Nat :=
  (s.cfg.rxCapacity - s.work.total.toNat) * (s.cfg.rxMaxWait + 3) + (s.work.rb.toNat - s.work.iw.toNat) + 1

/-- The block at RXWAIT's wait, with free space in the buffer and the budget not overrun (R125, R132). -/
structure Waiting (inside : RxPos → Running) (s : State) : Prop where
  legal : s.cfg.Legal
  phase : s.phase = .busy (inside .poll)
  room : s.work.total.toNat < s.cfg.rxCapacity
  budget : s.work.iw ≤ s.work.rb

/-- Each wait that may follow the pass RXWAIT is on, which is to take a byte or more, ends with at most `k` bus events. -/
def NextWaitEnds (i : Instr) (inside : RxPos → Running) (behind : Running) (s : State) (k : Nat) : Prop :=
  ∀ u, Waiting inside u → EMono i inside u → u.cfg = s.cfg → u.work.rb = s.work.rb → u.work.iw = 0#16 →
    s.work.total.toNat < u.work.total.toNat → EndsWithin i behind u k

/-- A free byte pays for a pass. -/
theorem Waiting.three_le_waitBound {inside : RxPos → Running} {s : State} (h : Waiting inside s) : 3 ≤ s.waitBound := by
  have hpass := Nat.le_mul_of_pos_left (s.cfg.rxMaxWait + 3) (Nat.sub_pos_of_lt h.room)
  unfold State.waitBound
  omega

/-- The bound of the next wait pays for the three events of the pass before it, as its burst took a byte or more. -/
theorem waitBound_drop {s u : State} (hc : u.cfg = s.cfg) (hlegal : s.cfg.Legal)
    (hrb : u.work.rb = BitVec.ofNat 16 s.cfg.rxMaxWait) (hiw : u.work.iw = 0#16)
    (hroom : u.work.total.toNat < s.cfg.rxCapacity) (htotal : s.work.total.toNat < u.work.total.toNat) :
    u.waitBound + 3 ≤ s.waitBound := by
  have hshort : (BitVec.ofNat 16 s.cfg.rxMaxWait).toNat = s.cfg.rxMaxWait := toWord_toNat _ hlegal.rxMaxWait_le
  have hspace : (s.cfg.rxCapacity - u.work.total.toNat + 1) * (s.cfg.rxMaxWait + 3) ≤
      (s.cfg.rxCapacity - s.work.total.toNat) * (s.cfg.rxMaxWait + 3) := Nat.mul_le_mul_right _ (by omega)
  rw [Nat.succ_mul] at hspace
  unfold State.waitBound
  rw [hc, hrb, hiw, hshort]
  omega

section Passes

variable {i : Instr} {inside : RxPos → Running} {behind : Running} (hl : Listener i inside behind) {s : State} {k : Nat}

include hl

/-- From the store of at least one byte: the reception ends, or waits again with less free space. -/
theorem store_endsWithin (hp : s.phase = .busy (inside .store)) (hlegal : s.cfg.Legal) (hpos : 1 ≤ s.work.n.toNat)
    (hfit : s.work.total.toNat + s.work.n.toNat ≤ s.cfg.rxCapacity) (hbs : s.work.bs.length = s.work.n.toNat)
    (hmono : EMono i inside s)
    (hwait : NextWaitEnds i inside behind s k) :
    EndsWithin i behind s k := by
  rcases hfit.eq_or_lt with hfull | hroom
  · have hstore := exec_listen_store_full hl hp hlegal hfull hbs
    exact (endsWithin_behind rfl k).after hstore rfl (List.append_nil _).symm (Nat.zero_add k).le
  · have hstore := exec_listen_store_room hl hp hlegal hroom hbs
    have htotal := toNat_total_add hlegal hfit
    have hmore : s.work.total.toNat < (s.work.total + s.work.n).toNat := by omega
    have hmono' := hmono.after hstore rfl
    refine EndsWithin.after (hwait _ ⟨by exact hlegal, rfl, ?_, ?_⟩ hmono' rfl rfl rfl hmore) hstore rfl
      (List.append_nil _).symm (Nat.zero_add k).le
    · exact htotal.trans_lt hroom
    · exact BitVec.le_def.mpr (Nat.zero_le _)

/-- From a burst of at least one byte, which its store follows. -/
theorem burst_endsWithin (hp : s.phase = .busy (inside .burst)) (hlegal : s.cfg.Legal) (hpos : 1 ≤ s.work.n.toNat)
    (hfit : s.work.total.toNat + s.work.n.toNat ≤ s.cfg.rxCapacity) (hmono : EMono i inside s)
    (hwait : NextWaitEnds i inside behind s k) :
    EndsWithin i behind s (k + 1) := by
  have hcap := hlegal.rxCapacity_le
  have hburst := exec_listen_burst hl hp (by omega)
  have hmono' := hmono.after hburst rfl
  exact EndsWithin.after (store_endsWithin hl rfl (by exact hlegal) (by exact hpos) (by exact hfit)
    (by exact answers_length ..) hmono' hwait) hburst rfl rfl (Nat.add_comm 1 k).le

/-- From a re-read that E-MONO keeps from 0: a burst of at least one byte follows (R125, R133(a)). -/
theorem reread_endsWithin (hp : s.phase = .busy (inside .reread)) (hlegal : s.cfg.Legal)
    (hroom : s.work.total.toNat < s.cfg.rxCapacity) (hmono : EMono i inside s)
    (hwait : NextWaitEnds i inside behind s k) :
    EndsWithin i behind s (k + 2) := by
  have hlevel := byte_pos (hmono 0 s rfl rfl hp)
  have hn : (BitVec.ofNat 16 (min (s.answer .rxlvl).1.toNat (s.cfg.rxCapacity - s.work.total.toNat))).toNat =
      min (s.answer .rxlvl).1.toNat (s.cfg.rxCapacity - s.work.total.toNat) :=
    toWord_toNat _ (by omega)
  have hreread := exec_listen_reread hl hp
  have hmono' := hmono.after hreread rfl
  refine EndsWithin.after (burst_endsWithin hl rfl (by exact hlegal) ?_ ?_ hmono' hwait) hreread rfl rfl
    (Nat.add_comm 1 (k + 1)).le
  · simp only [hn]
    omega
  · simp only [hn]
    omega

/-- A read of 0 within the budget brings RXWAIT back to its wait, with one iteration less (R125, R126(a)). -/
theorem again_endsWithin (hw : Waiting inside s) (hagain : (s.answer .rxlvl).1 = 0#8 ∧ s.work.iw < s.work.rb)
    (hmono : EMono i inside s)
    (hwait : ∀ u, Waiting inside u → EMono i inside u → u.waitBound + 1 = s.waitBound → EndsWithin i behind u k) :
    EndsWithin i behind s (k + 1) := by
  obtain ⟨hlegal, hp, hroom, -⟩ := hw
  have hpoll := exec_listen_poll hl hp
  rw [if_pos hagain, if_pos hagain] at hpoll
  have hpause := exec_listen_pause hl (s := { s with
    trace := s.trace ++ [.rd 0x48#8 (s.answer .rxlvl).1]
    env := (s.answer .rxlvl).2.env, draws := (s.answer .rxlvl).2.draws
    phase := .busy (inside .pause) }) rfl
  have hmono' := (hmono.after hpoll rfl).after hpause rfl
  obtain ⟨-, hlt⟩ := hagain
  have hless : s.work.rb.toNat - (s.work.iw + 1#16).toNat + 1 = s.work.rb.toNat - s.work.iw.toNat := by bv_omega
  refine EndsWithin.after (EndsWithin.after (hwait _ ⟨by exact hlegal, rfl, by exact hroom, ?_⟩ hmono' ?_) hpause rfl
    (List.append_nil _).symm le_rfl) hpoll rfl rfl (by simp only [List.length_singleton, List.length_nil]; omega)
  · simp only
    bv_omega
  · simp only [State.waitBound, ← hless]
    omega

/-- Data within the budget brings RXWAIT to its re-read, and from there to its end or to a wait with less free space. -/
theorem data_endsWithin (hw : Waiting inside s) (hagain : ¬ ((s.answer .rxlvl).1 = 0#8 ∧ s.work.iw < s.work.rb))
    (hbudget : s.work.iw ≠ s.work.rb) (hmono : EMono i inside s)
    (hwait : ∀ u, Waiting inside u → EMono i inside u → u.waitBound + 3 ≤ s.waitBound → EndsWithin i behind u k) :
    EndsWithin i behind s (k + 3) := by
  obtain ⟨hlegal, hp, hroom, -⟩ := hw
  have hpoll := exec_listen_poll hl hp
  rw [if_neg hagain, if_neg hagain, if_neg hbudget, if_neg hbudget] at hpoll
  have hmono' := hmono.after hpoll rfl
  refine EndsWithin.after (reread_endsWithin hl rfl (by exact hlegal) (by exact hroom) hmono' ?_) hpoll rfl rfl
    (Nat.add_comm 1 (k + 2)).le
  intro u hu hm hc hrb hiw htotal
  have hroom' : u.work.total.toNat < u.cfg.rxCapacity := hu.room
  rw [hc] at hroom'
  exact hwait u hu hm (waitBound_drop hc hlegal hrb hiw hroom' htotal)

/-- From its wait RXWAIT ends within the bound: by induction on the bound, along the wait's three outcomes. -/
theorem wait_endsWithin (N : Nat) : ∀ {s : State}, s.waitBound ≤ N → Waiting inside s → EMono i inside s →
    EndsWithin i behind s N := by
  induction N using Nat.strong_induction_on with
  | _ N ih =>
    intro s hN hw hmono
    have hthree := hw.three_le_waitBound
    by_cases hagain : (s.answer .rxlvl).1 = 0#8 ∧ s.work.iw < s.work.rb
    · rw [show N = N - 1 + 1 by omega]
      exact again_endsWithin hl hw hagain hmono fun u hu hm hless => ih (N - 1) (by omega) (by omega) hu hm
    by_cases hexpired : s.work.iw = s.work.rb
    · have hpoll := exec_listen_poll hl hw.phase
      rw [if_neg hagain, if_neg hagain, if_pos hexpired, if_pos hexpired] at hpoll
      exact (endsWithin_behind rfl 0).after hpoll rfl rfl (by simp only [List.length_singleton]; omega)
    · rw [show N = N - 3 + 3 by omega]
      exact data_endsWithin hl hw hagain hexpired hmono fun u hu hm hless => ih (N - 3) (by omega) (by omega) hu hm

end Passes

/-- Settles O49: at the start of a wait the bound is within the rule's. -/
theorem receiveTerminatesUnderEMono : Obligations.ReceiveTerminatesUnderEMono := by
  unfold Obligations.ReceiveTerminatesUnderEMono
  intro s i inside behind hinv hl hp hiw hmono
  obtain ⟨hroom, hbudget, -⟩ := rxOk_of_inv hl hinv hp
  obtain ⟨n, t, es, hrun, ht, hc, htrace, hlen⟩ :=
    wait_endsWithin hl s.waitBound le_rfl ⟨hinv.legal, hp, hroom, hbudget⟩ hmono
  refine ⟨n, t, hrun, ht, hc, ?_⟩
  have hspace : (s.cfg.rxCapacity - s.work.total.toNat) * (s.cfg.rxMaxWait + 3) ≤
      (s.cfg.rxCapacity + 1) * (s.cfg.rxMaxWait + 3) := Nat.mul_le_mul_right _ (by omega)
  rw [newEvents_append htrace]
  unfold State.waitBound at hlen
  omega

end Sys2Proof.Machine
end

section
/-! What RXWAIT's equations say of its pseudocode and of the end of a wait (43_receive.md R125, R126). -/

namespace Sys2Proof.Machine

/-- What stands in the buffer behind RXWAIT's store (R58, R125). -/
theorem Memory.get_setBytes_span (bs : List Byte) (m : List Host.Cell) (i a : Nat) :
    Memory.get (Memory.setBytes m i bs) a =
      if i ≤ a ∧ a < i + bs.length then bs[a - i]? else Memory.get m a := by
  rw [Memory.get_setBytes]
  by_cases h : i ≤ a ∧ a - i < bs.length
  · rw [dif_pos h, if_pos (by omega), List.getElem?_eq_getElem]
  · rw [dif_neg h, if_neg (by omega)]

/-- Settles O41: each listener's entry and RXWAIT's equation at each position; the invariant gives the store its premises. -/
theorem receiveLoopFollowsItsPseudocode : Obligations.ReceiveLoopFollowsItsPseudocode := by
  unfold Obligations.ReceiveLoopFollowsItsPseudocode
  refine ⟨fun _ => exec_recv_receiver, fun _ _ _ => exec_send_rxOn, fun s i inside behind hl =>
    ⟨fun hp => ⟨_, _, _, rfl, exec_listen_poll hl hp⟩, fun hp => ⟨_, exec_listen_pause hl hp⟩,
      fun hp => ⟨_, _, _, rfl, exec_listen_reread hl hp⟩,
      fun hp hn => ⟨_, _, _, answers_length .., exec_listen_burst hl hp hn⟩, fun hp hinv => ?_⟩⟩
  obtain ⟨-, hfit, hbs, -⟩ := rxOk_of_inv hl hinv hp
  exact ⟨_, exec_listen_store hl hp hinv.legal hfit hbs, fun a => hbs ▸ Memory.get_setBytes_span ..⟩

/-- Settles O42: with the budget used up neither the pause nor the re-read is open. -/
theorem lastPollOfAWaitEndsTheReception : Obligations.LastPollOfAWaitEndsTheReception := by
  unfold Obligations.LastPollOfAWaitEndsTheReception
  intro s i inside behind hl hp hiw
  have hnone : ¬ ((s.answer .rxlvl).1 = 0#8 ∧ s.work.iw < s.work.rb) := fun ⟨_, hlt⟩ =>
    BitVec.lt_irrefl _ (hiw ▸ hlt)
  have hpoll := exec_listen_poll hl hp
  rw [if_neg hnone, if_neg hnone, if_pos hiw, if_pos hiw] at hpoll
  exact ⟨_, _, _, hpoll⟩

/-- Settles O43: a wait that starts at `iw = 0` has its whole budget left. -/
theorem silentWaitReadsOnceMoreThanItsBudget : Obligations.SilentWaitReadsOnceMoreThanItsBudget := by
  unfold Obligations.SilentWaitReadsOnceMoreThanItsBudget
  intro s i inside behind more hl hp hiw hlevels
  exact listen_silence_run hl s.work.rb.toNat hp (by simp [hiw]) hlevels

end Sys2Proof.Machine
end

section
/-! The buffer read port (43_receive.md R129, R143). -/

namespace Sys2Proof.Machine

/-- A defined byte is read as it is stored (R45, R129). -/
theorem bufByte_defined {s : State} {a : Nat} {v : Byte} (h : a < s.bufDefined) (hv : Memory.get s.buf a = some v) :
    (s.bufByte a).1 = v := by
  simp [State.bufByte, h, hv]

/-- So it is among the bytes of a read of the buffer. -/
theorem memRead_defined {v : Byte} (n : Nat) : ∀ {i j : Nat} {s : State}, j < n → i + j < s.bufDefined →
    Memory.get s.buf (i + j) = some v → (State.memRead i n s).1[j]? = some v := by
  induction n with
  | zero => intro i j s hj; exact absurd hj (Nat.not_lt_zero j)
  | succ n ih =>
    intro i j s hj hdef hv
    cases j with
    | zero => exact congrArg some (bufByte_defined hdef hv)
    | succ j =>
      obtain ⟨d, hd⟩ := bufByte_spec s i
      have hindex : i + 1 + j = i + (j + 1) := by omega
      exact ih (i := i + 1) (s := (s.bufByte i).2) (Nat.lt_of_succ_lt_succ hj) (by rwa [hd, hindex]) (by rwa [hd, hindex])

/-- Settles O10: in IDLE the port answers by its range check, and outside IDLE no step acts on it. -/
theorem bufferReadPort : Obligations.BufferReadPort := by
  unfold Obligations.BufferReadPort
  intro s i n rest hq
  refine ⟨fun hp hfit => ?_, fun hp hpast => ?_, fun r t hp h => ?_, step_halted⟩
  · obtain ⟨hlen, d, hd⟩ := memRead_spec n i { s with requests := rest }
    refine ⟨(State.memRead i n { s with requests := rest }).1, d, ?_, hlen, fun j v hj hdef hv => ?_⟩
    · rw [step_idle_bufRead hp hq, State.bufRead, if_pos hfit]
      simp only [hd]
    · exact memRead_defined n hj hdef hv
  · rw [step_idle_bufRead hp hq, State.bufRead, if_neg (Nat.not_le.mpr hpast)]
    rfl
  · exact (runningStep_effect (step_busy hp ▸ h)).ports

end Sys2Proof.Machine
end

section
/-! The counts RECV gives, and what a step of RECV leaves unchanged (43_receive.md R125, R127, R132). -/

namespace Sys2Proof.Machine

/-- Settles O48: RECV's two ends are the only steps that give a count, and each gives one that the invariant bounds. -/
theorem receivedCountsStayWithinTheCapacity : Obligations.ReceivedCountsStayWithinTheCapacity := by
  unfold Obligations.ReceivedCountsStayWithinTheCapacity
  intro s t r hinv h hc
  rcases step_cases h with rfl | ⟨-, rest, ht⟩ | ⟨p, hp, hr⟩
  · simp at hc
  · cases ht <;> simp at hc
  · obtain ⟨-, -, hok⟩ : PhaseOk s (.busy p) := hp ▸ hinv.phase
    cases runningStep_effect hr with
    | quiet _ _ u hq => simp [hq.completions] at hc
    | broughtUp b u hq => simp [hq.completions] at hc
    | stored i inside behind r' u hl hq => simp [hq.completions, State.stored] at hc
    | initDone | beginDone | endDone | sendDone => simp at hc
    | recvCached =>
      obtain rfl : s.pending = r := by simpa using hc
      exact hinv.pending
    | recvDone =>
      obtain ⟨-, -, hcount⟩ := hok
      obtain rfl : lowByte s.work.count = r := by simpa using hc
      exact lowByte_count hinv.legal hcount

/-- RECV works on RXWAIT's registers alone (R28, R127). -/
theorem recvStep_keeps {p : RecvPos} {s t : State} (h : recvStep p s = .next t) :
    t.work.k = s.work.k ∧ t.work.offset = s.work.offset ∧ t.work.remaining = s.work.remaining ∧
      t.work.lsr = s.work.lsr := by
  cases p with
  | cached => cases h; exact ⟨rfl, rfl, rfl, rfl⟩
  | rearm q => cases h; cases q <;> exact ⟨rfl, rfl, rfl, rfl⟩
  | listen q =>
    obtain ⟨c, hc, rfl⟩ := mapNext_eq_next h
    rw [callProc_goTo_work]
    exact rxwaitStep_keeps hc
  | finish => cases h; exact ⟨rfl, rfl, rfl, rfl⟩

/-- Settles O55: of the effects of a running RECV's step only RXWAIT's store writes the buffer, only the cached path writes
PENDING and only its end says what is defined; and in IDLE a RECV is refused only outside a session. -/
theorem recvFrame : Obligations.RecvFrame := by
  unfold Obligations.RecvFrame
  intro s t h
  obtain ⟨hp, rfl⟩ | ⟨r, hp, hinstr, hr⟩ | rfl := exec_cases h
  · cases hs : s.inSession with
    | true =>
      rw [if_pos (show admitted .recv s = true from hs)]
      exact ⟨rfl, rfl, hs, rfl, rfl, rfl, rfl, rfl, rfl, fun _ => rfl, fun _ => rfl, fun _ _ => rfl,
        fun _ => ⟨rfl, rfl⟩, fun _ _ => rfl, fun _ _ => rfl⟩
    | false =>
      rw [if_neg (show ¬ admitted .recv s = true by simp [admitted, hs])]
      exact ⟨rfl, rfl, hs, rfl, rfl, rfl, rfl, rfl, rfl, fun _ => rfl, fun _ => rfl, fun _ _ => rfl,
        fun hbusy => absurd hbusy (by simp [hp]), fun _ _ => rfl, fun _ _ => rfl⟩
  · have hkeeps : t.work.k = s.work.k ∧ t.work.offset = s.work.offset ∧ t.work.remaining = s.work.remaining ∧
        t.work.lsr = s.work.lsr := by
      cases r with
      | recv => exact recvStep_keeps hr
      | init | beginSession | endSession | send => cases hinstr
    obtain ⟨hk, hoffset, hremaining, hlsr⟩ := hkeeps
    cases runningStep_effect hr with
    | quiet _ r' u hq =>
      exact ⟨hq.cfg, hq.initialized, hq.inSession, hq.bufReads, hq.requests, hk, hoffset, hremaining, hlsr,
        fun _ => hq.pending, fun _ => hq.bufDefined, fun _ _ => hq.completions, fun _ => ⟨hq.fault, hq.faultInfo⟩,
        fun _ a => congrArg (Memory.get · a) hq.buf, fun a _ => congrArg (Memory.get · a) hq.buf⟩
    | stored i inside behind r' u hl hq =>
      cases hl with
      | send => cases hinstr
      | recv =>
        exact ⟨hq.cfg, hq.initialized, hq.inSession, hq.bufReads, hq.requests, hk, hoffset, hremaining, hlsr,
          fun _ => hq.pending, fun _ => hq.bufDefined, fun _ _ => hq.completions, fun _ => ⟨hq.fault, hq.faultInfo⟩,
          fun hne => absurd hp hne, fun a ha => listenStep_outside hr ha⟩
    | recvCached =>
      exact ⟨rfl, rfl, rfl, rfl, rfl, rfl, rfl, rfl, rfl, fun hne => absurd hp hne, fun _ => rfl,
        fun hne _ => absurd hp hne, fun _ => ⟨rfl, rfl⟩, fun _ _ => rfl, fun _ _ => rfl⟩
    | recvDone =>
      exact ⟨rfl, rfl, rfl, rfl, rfl, rfl, rfl, rfl, rfl, fun _ => rfl, fun hne => absurd hp hne,
        fun _ hne => absurd hp hne, fun _ => ⟨rfl, rfl⟩, fun _ _ => rfl, fun _ _ => rfl⟩
    | broughtUp | initDone | beginDone | endDone | sendDone => cases hinstr
  · exact ⟨rfl, rfl, rfl, rfl, rfl, rfl, rfl, rfl, rfl, fun _ => rfl, fun _ => rfl, fun _ _ => rfl,
      fun _ => ⟨rfl, rfl⟩, fun _ _ => rfl, fun _ _ => rfl⟩

end Sys2Proof.Machine
end

section
/-! The faults of a step: the order of the checks in IDLE, and HALTED, which nothing leaves (60_exceptions.md R138 to R143). -/

namespace Sys2Proof.Machine

/-- IDLE faults on a command that does not pass the session check, with the command's word (R142). -/
theorem exec_idle_refused {i : Instr} {s : State} (hp : s.phase = .idle) (ha : admitted i s = false) :
    exec i s = .next (s.raiseFault .outsideSession (.word i.word)) := by
  rw [exec_idle i hp, ha]
  rfl

/-- Settles O6: neither passes the session check, and their words are those of the opcode map. -/
theorem outsideSessionSendAndRecvFault : Obligations.OutsideSessionSendAndRecvFault := by
  unfold Obligations.OutsideSessionSendAndRecvFault
  intro s hp hs
  refine ⟨exec_idle_refused (i := .recv) hp hs, fun len payload => ?_⟩
  obtain ⟨-, -, -, -, hsend⟩ := wordsOfTheOpcodeMap
  have hword : (Instr.send len payload).word = BitVec.ofNat 16 (0x0400 + len.toNat) :=
    congrArg Command.word (hsend len payload)
  rw [exec_idle_refused (i := .send len payload) hp hs, hword]
  rfl

/-- The session check is the last one: a command the decoder accepts can still be refused (R139, R142). -/
theorem step_idle_refused {s : State} {c : Command} {rest : List Request} {i : Instr} (hp : s.phase = .idle)
    (hq : s.requests = .command c :: rest) (hd : decode s.cfg.rxCapacity c = .ok i) (ha : admitted i s = false) :
    step s = .next ({ s with requests := rest }.raiseFault .outsideSession (.word c.word)) := by
  rw [step_idle_command hp hq hd, exec_idle_refused (s := { s with requests := rest }) hp ha, word_of_decode hd]

/-- A running command raises no fault (R142, R145). -/
theorem Effect.fault {r : Running} {s t : State} (he : Effect s r t) : t.fault = s.fault := by
  cases he with
  | quiet _ _ u hq => exact hq.fault
  | broughtUp b u hq => exact hq.fault
  | stored i inside behind r' u hl hq => exact hq.fault
  | initDone | beginDone | endDone | sendDone | recvCached | recvDone => rfl

/-- No step raises the reserved code (R138). -/
theorem fault_reserved_of_step {s t : State} (h : step s = .next t) (hf : t.fault = 7#3) : s.fault = 7#3 := by
  rcases step_cases h with rfl | ⟨-, rest, ht⟩ | ⟨r, -, hr⟩
  · exact hf
  · cases ht with
    | accepted | answered => exact hf
    | faulted code info =>
      obtain ⟨-, hne⟩ := faultCode_in_range code
      exact absurd hf hne
  · exact (runningStep_effect hr).fault ▸ hf

/-- Settles O5: each clause is one branch of the decoder, or the session check of what it decodes, or the range check of a
buffer read. -/
theorem faultsFollowTheCheckOrder : Obligations.FaultsFollowTheCheckOrder := by
  unfold Obligations.FaultsFollowTheCheckOrder
  refine ⟨fun s t => fault_reserved_of_step, ?_⟩
  intro s rest hp raises
  constructor
  · intro c hq op len
    have hreject {e : Reject} (hd : decode s.cfg.rxCapacity c = .error e) : raises (rejectCode e).code (rejectInfo c e) :=
      ⟨rest, step_idle_reject hp hq hd⟩
    have hrefuse {i : Instr} (hd : decode s.cfg.rxCapacity c = .ok i) (ha : admitted i s = false) :
        raises 5#3 (.word c.word) := ⟨rest, step_idle_refused hp hq hd ha⟩
    rw [everyWordDecodesOrIsRejectedByItsRule] at hreject hrefuse
    refine ⟨fun hop => hreject (e := .illegalOpcode) ?_,
      fun ⟨hlo, hhi, hne, hlen⟩ => hreject (e := .reservedOperand) ?_,
      fun ⟨hop, hlong⟩ => hreject (e := .lengthRange) ?_,
      fun ⟨hop, hfit, hcount⟩ => hreject (e := .payloadCount) ?_,
      fun ⟨hop, hfit, hcount, hs⟩ => hrefuse (i := .send (BitVec.ofNat 8 len) c.payload) ?_ hs,
      fun ⟨hop, hlen, hs⟩ => hrefuse (i := .recv) ?_ hs⟩
    · rw [if_pos hop]
    · rw [if_neg (by omega), if_neg hne, if_pos hlen]
    · rw [if_neg (by omega), if_pos hop, if_pos hlong]
    · rw [if_neg (by omega), if_pos hop, if_neg (Nat.not_lt.mpr hfit), if_pos hcount]
    · rw [if_neg (by omega), if_pos hop, if_neg (Nat.not_lt.mpr hfit), if_neg (not_not.mpr hcount)]
    · rw [show c.word.toNat / 256 = 5 from hop, show c.word.toNat % 256 = 0 from hlen]
      rfl
  · intro i n hq hpast
    obtain ⟨-, hfault, -⟩ := bufferReadPort s i n rest hq
    exact ⟨rest, hfault hp hpast⟩

/-- No command acts in HALTED (R141). -/
theorem exec_halted (i : Instr) {s : State} (h : s.phase = .halted) : exec i s = .next s := by
  cases i <;> simp [exec, execInit, execBegin, execEnd, execSend, execRecv, h]

/-- A state that the block's step leaves as it is stays for any number of steps. -/
theorem stepN_fixed {s : State} (h : step s = .next s) (n : Nat) : stepN n s = .next s := by
  induction n with
  | zero => rfl
  | succ n ih => rw [stepN, h]; exact ih

/-- A state that a command leaves as it is stays for any number of its steps. -/
theorem execN_fixed {i : Instr} {s : State} (h : exec i s = .next s) (n : Nat) : execN i n s = .next s := by
  induction n with
  | zero => rfl
  | succ n ih => rw [execN_succ h, ih]

/-- Settles O7: a halted state is a fixed point of the step and of every command. -/
theorem nothingLeavesHalted : Obligations.NothingLeavesHalted := by
  unfold Obligations.NothingLeavesHalted
  exact fun s n hp => ⟨stepN_fixed (step_halted hp) n, fun i => execN_fixed (exec_halted i hp) n⟩

end Sys2Proof.Machine
end
